-- ==== Sys2Proof/Word.lean ====
section
/-! DEFINITION. The word types of the block (spec/00_scope.md rules R10, R11). All values are unsigned. -/

namespace Sys2Proof

/-- A byte of the frame store, of a result register, or an operation word (R27, R32, R92). -/
abbrev Byte := BitVec 8

/-- A microsecond value: 32 bits, unsigned, wrapping (R10, `W_TIME`). `-` is the spec's `-32`. -/
abbrev Time := BitVec 32

end Sys2Proof
end

