-- ==== Sys2Proof/Syntax.lean ====
section
/-! DEFINITION. The operations of the block (spec/opcode_table.json, spec/30_encoding.md rules R92 to R95)
and the moves of its agents (spec/00_scope.md rule R7). -/

namespace Sys2Proof

/-- A line level (R13). -/
inductive Level where
  | low
  | high
deriving DecidableEq, Repr, Inhabited

/-- One constructor per row of the operation table. -/
inductive Instr where
  -- class 0b00, stage steps of the DECODER (R93)
  | stIdle
  | stReset
  | stRelease
  | stSynclowSkip
  | stSynclowLead
  | stSynclowTrail
  | stSynchigh
  | stRxSkip
  | stRxLead
  | stRxTrail
  | stValidate
  | stDone
  -- class 0b01, primitives (R94)
  | now
  | setOutputLow
  | setInputPullup
  | read
  | waitForLevel (l : Level)
  | measurePulse (l : Level)
  | checksum
  | fractional
  -- class 0b10, events (R95)
  | tick
  | ovfService
  | sensorDrive (v : Bool)
  | getReading
  | hwReset
  | setIe (v : Bool)
deriving DecidableEq, Repr

/-- The move of one agent: what may step next (R7, R67). The DECODER's move carries no operation:
its step is the one its own (`STAGE`, `PHASE`) select (R185). -/
inductive Move where
  /-- DECODER: the stage step selected by (`STAGE`, `PHASE`). -/
  | decoder
  /-- TIMER: `TICK`. -/
  | timer
  /-- IRQ: `OVF_SERVICE`. -/
  | irq
  /-- ENV: `SENSOR_DRIVE(v)`. -/
  | drive (v : Bool)
  /-- ENV: `GET_READING`. -/
  | command
  /-- ENV: `HW_RESET`. -/
  | reset
  /-- ENV: `SET_IE(v)`. -/
  | enable (v : Bool)
deriving DecidableEq, Repr, Inhabited

end Sys2Proof
end

