-- ==== Sys2Proof/Config.lean ====
section
/-! DEFINITION. Constants the spec fixes (spec/00_scope.md rule R8), parameters it leaves to the platform
(rule R9), and the free values. -/

namespace Sys2Proof.Config

/-- `N_BITS` (R8). -/
def nBits : Nat := 40
/-- `N_BYTES` (R8). -/
def nBytes : Nat := 5
/-- `SYNC_LOW_TIMEOUT_US` (R8). -/
def syncLowTimeoutUs : Time := 100
/-- `SYNC_LOW_MIN_US` (R8). -/
def syncLowMinUs : Time := 75
/-- `BIT_TIMEOUT_US` (R8). -/
def bitTimeoutUs : Time := 140
/-- `BIT_THRESHOLD_US` (R8). -/
def bitThresholdUs : Time := 60

/-- The parameters of R9, arguments of the step relation (R20). The host's interface fixes
`step : State → …`, so State carries them in a field no step writes (DESIGN CHOICE, log 1). -/
structure Params where
  /-- `k` of `COUNTER_PERIOD` = 2^k; also `W_CNT` (R9, R10). -/
  counterBits : Nat
  /-- `US_PER_TICK` (R9). -/
  usPerTick : Nat
  /-- `SYNC_HIGH_TIMEOUT_US` (R9). -/
  syncHighTimeoutUs : Nat
  /-- `RESET_LOW_US` (R9). -/
  resetLowUs : Nat
deriving DecidableEq, Repr

/-- `COUNTER_PERIOD`, `P` (R9). -/
def Params.period (p : Params) : Nat := 2 ^ p.counterBits

/-- The reference values of R10: `P` = 256, `U` = 1, 100 and 18000. -/
def Params.reference : Params where
  counterBits := 8
  usPerTick := 1
  syncHighTimeoutUs := 100
  resetLowUs := 18000

/-- FREE VALUE (log 3): what `T0`, `TS` and `SAMPLE` hold after a `HW_RESET` (R45, R245 "unspecified").
Nothing constrains it; it is applied to a counter of State. -/
opaque unspecified : Nat → Time

/-- FREE VALUE (log 5): which agent moves next when State lists no move (R67: "Which agent steps next is not fixed").
Nothing constrains it; it is applied to a counter of State. -/
opaque nextMove : Nat → Move

end Sys2Proof.Config
end

