-- ==== Sys2Proof/WellFormed.lean ====
section
/-! DEFINITION. What is well formed: operation words (spec/30_encoding.md rule R96 (a)), instructions, and
the platform's parameters (spec/00_scope.md rule R9). -/

namespace Sys2Proof

/-- R96 (a): class 0b11 is reserved. -/
def classOk (w : Byte) : Bool := w.extractLsb' 6 2 != 3#2

/-- R93, R96 (a): a class 0 word has bit 5 clear. -/
def stageBitOk (w : Byte) : Bool := w.extractLsb' 6 2 != 0#2 || !w.getLsbD 5

/-- R93, R96 (a): phase 3 names no step, and a phase other than 0 names one in stages 3 and 5 only. -/
def stagePairOk (w : Byte) : Bool :=
  w.extractLsb' 6 2 != 0#2 ||
    (w.extractLsb' 0 2 != 3#2 &&
      (w.extractLsb' 0 2 == 0#2 || w.extractLsb' 2 3 == 3#3 || w.extractLsb' 2 3 == 5#3))

/-- R94, R95, R96 (a): in classes 1 and 2 the low two bits are 0. -/
def lowBitsOk (w : Byte) : Bool :=
  (w.extractLsb' 6 2 != 1#2 && w.extractLsb' 6 2 != 2#2) || w.extractLsb' 0 2 == 0#2

/-- R94, R95, R96 (a): bit 2 is 0 but for primitives 4 and 5 and events 2 and 5. -/
def operandBitOk (w : Byte) : Bool :=
  !w.getLsbD 2 || (w.extractLsb' 6 2 != 1#2 && w.extractLsb' 6 2 != 2#2) ||
    (w.extractLsb' 6 2 == 1#2 && (w.extractLsb' 3 3 == 4#3 || w.extractLsb' 3 3 == 5#3)) ||
    (w.extractLsb' 6 2 == 2#2 && (w.extractLsb' 3 3 == 2#3 || w.extractLsb' 3 3 == 5#3))

/-- R95, R96 (a): event numbers 6 and 7 are reserved. -/
def eventOk (w : Byte) : Bool :=
  w.extractLsb' 6 2 != 2#2 || (w.extractLsb' 3 3 != 6#3 && w.extractLsb' 3 3 != 7#3)

/-- The words R96 (a) does not reserve. -/
def wordWf (w : Byte) : Bool :=
  classOk w && stageBitOk w && stagePairOk w && lowBitsOk w && operandBitOk w && eventOk w

/-- Every instruction is well formed: the only operands a word carries are one level or one bit (R94, R95),
and their types hold nothing else. -/
def Instr.wf : Instr → Bool
  | .stIdle | .stReset | .stRelease | .stSynclowSkip | .stSynclowLead | .stSynclowTrail => true
  | .stSynchigh | .stRxSkip | .stRxLead | .stRxTrail | .stValidate | .stDone => true
  | .now | .setOutputLow | .setInputPullup | .read | .checksum | .fractional => true
  | .waitForLevel _ | .measurePulse _ => true
  | .tick | .ovfService | .getReading | .hwReset => true
  | .sensorDrive _ | .setIe _ => true

/-- The ranges R9 gives the parameters. -/
def Config.Params.wf (p : Config.Params) : Bool :=
  decide (1 ≤ p.counterBits) && decide (1 ≤ p.usPerTick) &&
    (decide (100 ≤ p.syncHighTimeoutUs) && decide (p.syncHighTimeoutUs ≤ 5000)) &&
    (decide (18000 ≤ p.resetLowUs) && decide (p.resetLowUs ≤ 20000))

end Sys2Proof
end

