-- ==== Sys2Proof/Decode.lean ====
section
/-! DEFINITION. Decoding and encoding of operation words (spec/30_encoding.md rules R87, R92 to R96). -/

namespace Sys2Proof

/-- Why a word names no operation (R96 (a)). -/
inductive DecodeError where
  /-- There is no word: the byte list is empty. -/
  | noWord
  /-- Class 0b11. -/
  | reservedClass
  /-- A class 0 word with bit 5 set. -/
  | reservedStageBit
  /-- A class 0 word whose (`STAGE`, `PHASE`) pair is not in R93's table. -/
  | reservedStagePair
  /-- A class 1 or 2 word with `OPW[1:0]` not 0. -/
  | reservedLowBits
  /-- A class 1 or 2 word with `OPW[2]` = 1 on an operation without an operand. -/
  | reservedOperand
  /-- Event number 6 or 7. -/
  | reservedEvent
deriving DecidableEq, Repr

/-- The code of a level (R87): `High` = 1, `Low` = 0. -/
def Level.code : Level → Bool
  | .low => false
  | .high => true

/-- The level a bit carries (R87). -/
def Level.ofBit : Bool → Level
  | false => .low
  | true => .high

/-- The level that is not this one, the spec's `¬lv` (R13). -/
def Level.other : Level → Level
  | .low => .high
  | .high => .low

/-- `OPW[hi:lo]` as a number. -/
def opField (w : Byte) (lo len : Nat) : Nat := (w.extractLsb' lo len).toNat

/-- Class 0b00 (R93): the step of `OPW[4:2]` = `STAGE`, `OPW[1:0]` = `PHASE`. -/
def decodeStage (stage phase : Nat) : Except DecodeError Instr :=
  match stage, phase with
  | 0, 0 => .ok .stIdle
  | 1, 0 => .ok .stReset
  | 2, 0 => .ok .stRelease
  | 3, 0 => .ok .stSynclowSkip
  | 3, 1 => .ok .stSynclowLead
  | 3, 2 => .ok .stSynclowTrail
  | 4, 0 => .ok .stSynchigh
  | 5, 0 => .ok .stRxSkip
  | 5, 1 => .ok .stRxLead
  | 5, 2 => .ok .stRxTrail
  | 6, 0 => .ok .stValidate
  | 7, 0 => .ok .stDone
  | _, _ => .error .reservedStagePair

/-- An operation that takes no operand: `OPW[2]` must be 0 (R94, R95). -/
def noOperand (bit : Bool) (i : Instr) : Except DecodeError Instr :=
  if bit then .error .reservedOperand else .ok i

/-- Class 0b01 (R94): the primitive of `OPW[5:3]` with `OPW[2]` its level. -/
def decodePrimitive (number : Nat) (bit : Bool) : Except DecodeError Instr :=
  match number with
  | 0 => noOperand bit .now
  | 1 => noOperand bit .setOutputLow
  | 2 => noOperand bit .setInputPullup
  | 3 => noOperand bit .read
  | 4 => .ok (.waitForLevel (Level.ofBit bit))
  | 5 => .ok (.measurePulse (Level.ofBit bit))
  | 6 => noOperand bit .checksum
  | _ => noOperand bit .fractional

/-- Class 0b10 (R95): the event of `OPW[5:3]` with `OPW[2]` its operand. -/
def decodeEvent (number : Nat) (bit : Bool) : Except DecodeError Instr :=
  match number with
  | 0 => noOperand bit .tick
  | 1 => noOperand bit .ovfService
  | 2 => .ok (.sensorDrive bit)
  | 3 => noOperand bit .getReading
  | 4 => noOperand bit .hwReset
  | 5 => .ok (.setIe bit)
  | _ => .error .reservedEvent

/-- The operation an operation word names (R92), or why it names none (R96 (a)). -/
def decode (w : Byte) : Except DecodeError Instr :=
  match opField w 6 2 with
  | 0 => if w.getLsbD 5 then .error .reservedStageBit else decodeStage (opField w 2 3) (opField w 0 2)
  | 1 =>
    if opField w 0 2 = 0 then decodePrimitive (opField w 3 3) (w.getLsbD 2)
    else .error .reservedLowBits
  | 2 =>
    if opField w 0 2 = 0 then decodeEvent (opField w 3 3) (w.getLsbD 2)
    else .error .reservedLowBits
  | _ => .error .reservedClass

/-- Every operation is one word (R80): the first byte is the operation, the rest is left. -/
def decodeBytes : List Byte → Except DecodeError (Instr × List Byte)
  | [] => .error .noWord
  | w :: rest =>
    match decode w with
    | .ok i => .ok (i, rest)
    | .error e => .error e

/-- `{class, number, operand bit, 00}` (R94, R95). -/
def operandWord (cls number : Nat) (bit : Bool) : Byte :=
  BitVec.ofNat 2 cls ++ BitVec.ofNat 3 number ++ BitVec.ofBool bit ++ 0#2

/-- `{00, 0, STAGE, PHASE}` (R93). -/
def stageWord (stage : BitVec 3) (phase : BitVec 2) : Byte := 0#3 ++ stage ++ phase

/-- The operation word of an operation (R93 to R95). -/
def encode : Instr → Byte
  | .stIdle => stageWord 0 0
  | .stReset => stageWord 1 0
  | .stRelease => stageWord 2 0
  | .stSynclowSkip => stageWord 3 0
  | .stSynclowLead => stageWord 3 1
  | .stSynclowTrail => stageWord 3 2
  | .stSynchigh => stageWord 4 0
  | .stRxSkip => stageWord 5 0
  | .stRxLead => stageWord 5 1
  | .stRxTrail => stageWord 5 2
  | .stValidate => stageWord 6 0
  | .stDone => stageWord 7 0
  | .now => operandWord 1 0 false
  | .setOutputLow => operandWord 1 1 false
  | .setInputPullup => operandWord 1 2 false
  | .read => operandWord 1 3 false
  | .waitForLevel l => operandWord 1 4 l.code
  | .measurePulse l => operandWord 1 5 l.code
  | .checksum => operandWord 1 6 false
  | .fractional => operandWord 1 7 false
  | .tick => operandWord 2 0 false
  | .ovfService => operandWord 2 1 false
  | .sensorDrive v => operandWord 2 2 v
  | .getReading => operandWord 2 3 false
  | .hwReset => operandWord 2 4 false
  | .setIe v => operandWord 2 5 v

/-- The event word an agent's move is (R95), given the word of the DECODER's own step. -/
def Move.word (decoderWord : Byte) : Move → Byte
  | .decoder => decoderWord
  | .timer => encode .tick
  | .irq => encode .ovfService
  | .drive v => encode (.sensorDrive v)
  | .command => encode .getReading
  | .reset => encode .hwReset
  | .enable v => encode (.setIe v)

/-- The first byte of an instruction of `nbits` bits `w`, every bit above them 0. -/
def tableByte (nbits w : Nat) : Byte := BitVec.ofNat 8 (w % 2 ^ nbits)

/-- The operation the decoder reads from the bits `w` of a row of spec/opcode_table.json. -/
def decodeTableWord (nbits w : Nat) : Option Instr :=
  match decodeBytes [tableByte nbits w] with
  | .ok (i, _) => some i
  | .error _ => none

end Sys2Proof
end

