-- ==== Sys2Proof/Machine/State.lean ====
section
/-! DEFINITION. The state of the block (spec/10_state.md rules R20 to R45), the reasons a step can stop, and
the state after reset. The fields of the model's own are marked so; notes/assumptions says why each is there. -/

namespace Sys2Proof.Machine

/-- `STAGE` (R21, R90). The constructors stand in the order of their codes; all eight codes are used. -/
inductive Stage where
  | idle
  | reset
  | release
  | synclow
  | synchigh
  | receivebits
  | validate
  | done
deriving DecidableEq, Repr

/-- `PHASE` (R22, R91), a 2-bit register. `reserved` is the code 3, which is never written (R96 (b)). -/
inductive Phase where
  | skip
  | lead
  | trail
  | reserved
deriving DecidableEq, Repr

/-- `ReasonCode`, a closed set of five (R88). The codes 5 to 7 of `RES_REASON` do not exist as values (U2). -/
inductive ReasonCode where
  | unknown
  | syncTimeout1
  | syncTimeout2
  | dataTimeout
  | checksumMismatch
deriving DecidableEq, Repr

/-- `GMODE` (R38). -/
inductive PadMode where
  | inputPullup
  | outputLow
deriving DecidableEq, Repr

/-- The frame store as memory: (byte index, byte) pairs (R60). `Memory.wf` in Ops.lean is its canonical form. -/
abbrev Memory := List Host.Cell

/-- MODEL'S OWN: the operands of a primitive issued on its own, which its word does not carry (R94, R97; log 7). -/
structure PrimArgs where
  /-- `TO` of `WAIT_FOR_LEVEL` and `MEASURE_PULSE` (R146, R148). -/
  timeout : Time
  /-- `t0` of `WAIT_FOR_LEVEL`; none where the call leaves `startTime` out (R147). -/
  origin : Option Time
  /-- The bytes of `CHECKSUM` (R202); `b0` is that of `FRACTIONAL` (R204). -/
  b0 : Byte
  b1 : Byte
  b2 : Byte
  b3 : Byte
deriving DecidableEq, Repr

/-- MODEL'S OWN: a blocking primitive that has been issued and has not yet returned (R146, R148; log 8). -/
inductive Call where
  | none
  /-- `WAIT_FOR_LEVEL(level, timeout, origin)` between two polls. -/
  | waiting (level : Level) (timeout origin : Time)
  /-- `MEASURE_PULSE(level, timeout)` between two polls: the shared origin, the wait it is in, the start stamp. -/
  | measuring (level : Level) (timeout origin : Time) (phase : Phase) (start : Time)
deriving DecidableEq, Repr

/-- MODEL'S OWN: what a primitive returned (R94, column "result"; log 7). -/
inductive PrimResult where
  /-- Nothing has returned. -/
  | none
  /-- A blocking primitive polled and must poll again. -/
  | pending
  | time (t : Time)
  | level (l : Level)
  | bool (b : Bool)
  | sample (s : Time)
  | byte (b : Byte)
  /-- `FRACTIONAL`: the scale `K` and the exact value. -/
  | fraction (k : BitVec 2) (v : ℚ)
deriving DecidableEq, Repr

/-- The state. -/
structure State where
  /-- `STAGE`, 3 bits (R21). -/
  stage : Stage
  /-- `PHASE`, 2 bits (R22). -/
  phase : Phase
  /-- `T0`, 32 bits (R23). -/
  t0 : Time
  /-- `TS`, 32 bits (R24). -/
  ts : Time
  /-- `SAMPLE`, 32 bits (R25). -/
  sample : Time
  /-- `BITIDX`, 6 bits (R26). -/
  bitIdx : BitVec 6
  /-- `FRAME[0..4]`, 5 × 8 bits (R27). -/
  frame : Memory
  /-- `BUSY` (R28). -/
  busy : Bool
  /-- `DONEF` (R29). -/
  donef : Bool
  /-- `RES_VALID` (R30). -/
  resValid : Bool
  /-- `RES_REASON`, 3 bits (R31). -/
  resReason : ReasonCode
  /-- `HUM_I`, 8 bits (R32). -/
  humI : Byte
  /-- `HUM_F`, 8 bits (R32). -/
  humF : Byte
  /-- `TMP_I`, 8 bits (R32). -/
  tmpI : Byte
  /-- `TMP_F`, 8 bits (R32). -/
  tmpF : Byte
  /-- `CNT`, `W_CNT` = log2 `P` bits (R34): a number below `P` (log 12). -/
  cnt : Nat
  /-- `OVF`, 32 bits (R35). -/
  ovf : BitVec 32
  /-- `OVP` (R36). -/
  ovp : Bool
  /-- `IE` (R37). -/
  ie : Bool
  /-- `GMODE` (R38). -/
  gmode : PadMode
  /-- `SENS` (R40): the environment pulls the line low. -/
  sens : Bool
  /-- `START` (R42). -/
  start : Bool
  /-- MODEL'S OWN: the parameters (R9), written by no step (log 1). -/
  par : Config.Params
  /-- MODEL'S OWN: operands of a primitive issued on its own (log 7). -/
  args : PrimArgs
  /-- MODEL'S OWN: the blocking primitive in progress (log 8). -/
  call : Call
  /-- MODEL'S OWN: what the last primitive returned (log 7). -/
  ret : PrimResult
  /-- MODEL'S OWN: how many unspecified values `HW_RESET` has drawn (log 3). -/
  unspecIx : Nat
  /-- MODEL'S OWN: the moves to come, next first (log 5). -/
  agenda : List Move
  /-- MODEL'S OWN: how many moves the free schedule has given (log 5). -/
  turn : Nat
  /-- MODEL'S OWN: an operation word issued from outside, which the next step takes (log 6). -/
  issued : Option Byte
deriving DecidableEq, Repr

/-- Why the machine stops with a fault. -/
inductive Fault where
  /-- Raised by `step` when it is the DECODER's move and (`STAGE`, `PHASE`) names no step: "stuck" (R96 (b)).
  Safe: the machine stops and nothing is concluded; unreachable from reset (R44 (a)). -/
  | stuck
  /-- Raised by `step` when a stage word issued from outside is not `{STAGE, PHASE}` (R185; log 6).
  Safe: the word is then no step of the block. -/
  | notSelected
  /-- Raised by the bit store of a `RECEIVEBITS` step when `BITIDX` is 40 or more: that byte of the frame store does
  not exist (R60, R62; log 11). Safe; unreachable from reset (R44 (b)). -/
  | frameAddress
deriving DecidableEq, Repr

/-- Why a word is refused. -/
inductive Refusal where
  /-- Raised by an arm of `exec` whose operation has no meaning; no arm is left so. Safe. -/
  | notModelled (mnemonic : String)
  /-- Raised by `step` for an issued word that names no operation: "a trace decoder refuses them" (R96 (a)). Safe. -/
  | reservedWord (e : DecodeError)
deriving DecidableEq, Repr

/-- The state right after reset under given parameters (R45). `T0`, `TS`, `SAMPLE` (R45 "unspecified") and `SENS`
(R45 "not reset") hold values the model names: logs 2 and 4. -/
def State.resetWith (p : Config.Params) : State where
  stage := .idle
  phase := .skip
  t0 := 0
  ts := 0
  sample := 0
  bitIdx := 0
  frame := []
  busy := false
  donef := false
  resValid := false
  resReason := .unknown
  humI := 0
  humF := 0
  tmpI := 0
  tmpF := 0
  cnt := 0
  ovf := 0
  ovp := false
  ie := false
  gmode := .inputPullup
  sens := false
  start := false
  par := p
  args := ⟨0, none, 0, 0, 0, 0⟩
  call := .none
  ret := .none
  unspecIx := 0
  agenda := []
  turn := 0
  issued := none

/-- The state right after reset, under the reference parameters of R10 (log 1). -/
def State.reset : State := State.resetWith Config.Params.reference

end Sys2Proof.Machine
end

