-- ==== Sys2Proof/Machine/Ops.lean ====
section
/-! DEFINITION. The shared operations over state: the frame store, the line, the clock read, the poll and the pulse
measurement, the failure entry and the end of an attempt. -/

namespace Sys2Proof.Machine

/-- The outcome of every meaning. -/
abbrev Result := Host.Outcome State Fault Refusal

/-- Go on from a next state; a stop stays a stop. -/
def andThen (o : Result) (f : State → Result) : Result :=
  match o with
  | .next s => f s
  | .fault r => .fault r
  | .refused r => .refused r

/-! ### State codes -/

/-- The binary code of `STAGE` (R90). -/
def Stage.code : Stage → BitVec 3
  | .idle => 0
  | .reset => 1
  | .release => 2
  | .synclow => 3
  | .synchigh => 4
  | .receivebits => 5
  | .validate => 6
  | .done => 7

/-- The stage of a code (R90). -/
def Stage.ofCode (c : BitVec 3) : Stage :=
  match c.toNat with
  | 0 => .idle
  | 1 => .reset
  | 2 => .release
  | 3 => .synclow
  | 4 => .synchigh
  | 5 => .receivebits
  | 6 => .validate
  | _ => .done

/-- The binary code of `PHASE` (R91). -/
def Phase.code : Phase → BitVec 2
  | .skip => 0
  | .lead => 1
  | .trail => 2
  | .reserved => 3

/-- The phase of a code (R91). -/
def Phase.ofCode (c : BitVec 2) : Phase :=
  match c.toNat with
  | 0 => .skip
  | 1 => .lead
  | 2 => .trail
  | _ => .reserved

/-- The 3-bit code of a reason on `RES_REASON` (R88). -/
def ReasonCode.code : ReasonCode → BitVec 3
  | .unknown => 0
  | .syncTimeout1 => 1
  | .syncTimeout2 => 2
  | .dataTimeout => 3
  | .checksumMismatch => 4

/-- The 1-bit code of `GMODE` (R38). -/
def PadMode.code : PadMode → Bool
  | .inputPullup => false
  | .outputLow => true

/-! ### The frame store (spec/20_memory.md rules R60 to R63) -/

/-- What a byte of the frame store that is not listed reads as: 0, its reset value (R45). -/
def Memory.unlisted : Byte := 0

/-- How many bytes the frame store has (R60). -/
def Memory.size : Nat := Config.nBytes

/-- Read one byte. -/
def Memory.read : Memory → Nat → Byte
  | [], _ => Memory.unlisted
  | (a, b) :: m, x => if x = a then b else Memory.read m x

/-- Put a cell in front of a memory of higher addresses, unless it says what an unlisted address reads as. -/
def Memory.cons (a : Nat) (b : Byte) (m : Memory) : Memory :=
  if b = Memory.unlisted then m else (a, b) :: m

/-- Write one byte, keeping the canonical form. -/
def Memory.write : Memory → Nat → Byte → Memory
  | [], x, v => Memory.cons x v []
  | (a, b) :: m, x, v =>
    if x < a then Memory.cons x v ((a, b) :: m)
    else if x = a then Memory.cons x v m
    else (a, b) :: Memory.write m x v

/-- Every listed address is at least `lo`, addresses rise strictly, all exist, and no entry is redundant. -/
def Memory.wfFrom : Nat → Memory → Bool
  | _, [] => true
  | lo, (a, b) :: m =>
    decide (lo ≤ a) && decide (a < Memory.size) && decide (b ≠ Memory.unlisted) && Memory.wfFrom (a + 1) m

/-- The canonical form of the frame store. -/
def Memory.wf (m : Memory) : Bool := Memory.wfFrom 0 m

/-- The byte index of bit `i` of the frame (R61). -/
def byteOf (i : Nat) : Nat := i / 8

/-- The bit position of bit `i` within its byte (R61). -/
def bitOfByte (i : Nat) : Nat := 7 - i % 8

/-- A byte with its bit `k` replaced by `v`. -/
def setBit (b : Byte) (k : Nat) (v : Bool) : Byte :=
  if v then b ||| (1#8 <<< k) else b &&& ~~~(1#8 <<< k)

/-- Bit number `i` of the frame in reception order (R61). -/
def frameBit (m : Memory) (i : Nat) : Bool := (Memory.read m (byteOf i)).getLsbD (bitOfByte i)

/-- Store bit number `i` of the frame, leaving the other bits as they are (R61, R177); none where the frame has
no such bit (R62). -/
def storeBit (m : Memory) (i : Nat) (v : Bool) : Option Memory :=
  if byteOf i < Memory.size then
    some (Memory.write m (byteOf i) (setBit (Memory.read m (byteOf i)) (bitOfByte i) v))
  else none

/-! ### The line and the clock -/

/-- `LINE` (R134). -/
def line (s : State) : Level :=
  if s.gmode = .outputLow ∨ s.sens then .low else .high

/-- The overflow count with a pending overflow folded in (R113). -/
def overflows (s : State) : Nat := (s.ovf.toNat + s.ovp.toNat) % 2 ^ 32

/-- The clock in ticks, `tk` of R113. -/
def clockTicks (s : State) : Nat := overflows s * s.par.period + s.cnt

/-- `NOW()` (R113). -/
def nowOf (s : State) : Time := BitVec.ofNat 32 (clockTicks s * s.par.usPerTick)

/-! ### Poll and pulse measurement (spec/42_wait_pulse.md rules R145, R149) -/

/-- The result of a poll (R145). -/
inductive PollResult where
  | hit (t : Time)
  | timeout
  | pending
deriving DecidableEq, Repr

/-- `poll(lv, TO, t0)` on a line level `l` and a clock value `t` sampled at one instant: the level test first (R145). -/
def poll (lv : Level) (limit t0 : Time) (l : Level) (t : Time) : PollResult :=
  if l = lv then .hit t
  else if limit ≤ t - t0 then .timeout
  else .pending

/-- What one step of a pulse measurement does (R149). -/
inductive PulseStep where
  /-- Nothing: poll again. -/
  | wait
  /-- The line was seen at the opposite level: `PHASE <- LEAD`. -/
  | lead
  /-- The pulse began: `TS <- start`, `PHASE <- TRAIL`. -/
  | trail (start : Time)
  /-- The measurement is over with this sample. -/
  | done (sample : Time)
deriving DecidableEq, Repr

/-- `mp_step(lv, TO)` in a given phase (R149). The reserved phase has no step (R96 (b)). -/
def pulseStep (lv : Level) (limit : Time) (ph : Phase) (t0 ts : Time) (l : Level) (t : Time) : PulseStep :=
  match ph with
  | .skip =>
    match poll lv.other limit t0 l t with
    | .hit _ => .lead
    | .timeout => .done 0
    | .pending => .wait
  | .lead =>
    match poll lv limit t0 l t with
    | .hit t' => .trail t'
    | .timeout => .done 0
    | .pending => .wait
  | .trail =>
    match poll lv.other limit t0 l t with
    | .hit t' => .done (t' - ts)
    | .timeout => .done 0
    | .pending => .wait
  | .reserved => .wait

/-! ### Failure entry and the end of an attempt (spec/60_exceptions.md rules R223, R224) -/

/-- `fail(reason)`, the failure entry (R223): the block's taking of an exception. -/
def failWith (r : ReasonCode) (s : State) : State :=
  { s with resReason := r, stage := .done, phase := .skip }

/-- The end of an attempt, after a failure exactly as after a success (R179, R224). -/
def endAttempt (s : State) : State :=
  { s with busy := false, donef := true, stage := .idle }

/-- Deliver a primitive's result to its caller (R94; log 7). It writes no register of the block. -/
def answer (r : PrimResult) (s : State) : State := { s with ret := r }

end Sys2Proof.Machine
end

