-- ==== Sys2Proof/Machine/Operands.lean ====
section
/-! DEFINITION. The operands: the constants each stage step uses (spec/30_encoding.md rule R97), and those of a
primitive issued on its own (log 7). -/

namespace Sys2Proof.Machine

/-- `RESET_LOW_US`, zero-extended to 32 bits (R97). -/
def resetLow (s : State) : Time := BitVec.ofNat 32 s.par.resetLowUs

/-- `SYNC_HIGH_TIMEOUT_US`, zero-extended to 32 bits (R97). -/
def syncHighTimeout (s : State) : Time := BitVec.ofNat 32 s.par.syncHighTimeoutUs

/-- The elapsed time of the wait in progress, `NOW() -32 T0` (R116). -/
def elapsed (s : State) : Time := nowOf s - s.t0

/-- One step of the `SYNCLOW` measurement: level `Low`, timeout 100, origin `T0` (R97, R169 to R171). -/
def synclowPulse (ph : Phase) (s : State) : PulseStep :=
  pulseStep .low Config.syncLowTimeoutUs ph s.t0 s.ts (line s) (nowOf s)

/-- One step of a `RECEIVEBITS` measurement: level `High`, timeout 140, origin `T0` (R97, R174 to R176). -/
def rxPulse (ph : Phase) (s : State) : PulseStep :=
  pulseStep .high Config.bitTimeoutUs ph s.t0 s.ts (line s) (nowOf s)

/-- The poll of `SYNCHIGH`: level `Low`, timeout `SYNC_HIGH_TIMEOUT_US`, origin `T0` (R97, R173). -/
def synchighPoll (s : State) : PollResult :=
  poll .low (syncHighTimeout s) s.t0 (line s) (nowOf s)

/-- Timeout and origin of a `WAIT_FOR_LEVEL(l, TO, t0)`: those of the same wait in progress, or of a new one, whose
origin is `NOW()` at the call where the caller gives none (R146, R147). -/
def waitOperands (l : Level) (s : State) : Time × Time :=
  match s.call with
  | .waiting l' limit t0 => if l' = l then (limit, t0) else (s.args.timeout, s.args.origin.getD (nowOf s))
  | .none | .measuring .. => (s.args.timeout, s.args.origin.getD (nowOf s))

/-- A pulse measurement a caller has begun: its timeout, its shared origin, the wait it is in, its start stamp. -/
structure PulseCall where
  timeout : Time
  origin : Time
  phase : Phase
  start : Time
deriving DecidableEq, Repr

/-- A new `MEASURE_PULSE`: the shared origin is `NOW()` at the call (R148). -/
def newPulseCall (s : State) : PulseCall := ⟨s.args.timeout, nowOf s, .skip, nowOf s⟩

/-- The measurement a `MEASURE_PULSE(l, TO)` continues, or the one it begins (R148). -/
def pulseOperands (l : Level) (s : State) : PulseCall :=
  match s.call with
  | .measuring l' limit t0 ph st => if l' = l then ⟨limit, t0, ph, st⟩ else newPulseCall s
  | .none | .waiting .. => newPulseCall s

end Sys2Proof.Machine
end

