-- ==== Sys2Proof/Machine/Flags.lean ====
section
/-! DEFINITION. The tests and pure functions the steps evaluate: bit decode, checksum, fraction
(spec/44_checksum_result.md), and the conditions that enable or select a step. -/

namespace Sys2Proof.Machine

/-- `bit_of(s)` (R200). -/
def bitOf (w : Time) : Bool := decide (Config.bitThresholdUs < w)

/-- `CHECKSUM(b0, b1, b2, b3)`: the sum is taken in full, then truncated (R202). -/
def checksumOf (b0 b1 b2 b3 : Byte) : Byte :=
  BitVec.ofNat 8 ((b0.toNat + b1.toNat + b2.toNat + b3.toNat) % 256)

/-- The checksum of the first four bytes of a frame. -/
def frameChecksum (m : Memory) : Byte :=
  checksumOf (Memory.read m 0) (Memory.read m 1) (Memory.read m 2) (Memory.read m 3)

/-- The validity predicate of a frame (R203). -/
def frameValid (m : Memory) : Bool := frameChecksum m == Memory.read m 4

/-- The loop of `FRACTIONAL` (R204): divide by 10 while the value, `b / den`, is not less than 1, counting. Three
divisions bring every byte below 1. -/
def fractionLoop : (fuel : Nat) → (b den k : Nat) → Nat × Nat
  | 0, _, den, k => (k, den)
  | fuel + 1, b, den, k => if den ≤ b then fractionLoop fuel b (den * 10) (k + 1) else (k, den)

/-- The decimal scale `K` of a fraction byte (R204). -/
def scaleOf (b : Byte) : BitVec 2 := BitVec.ofNat 2 (fractionLoop 3 b.toNat 1 0).1

/-- The value of a fraction byte, an exact rational (R204). -/
def fractionOf (b : Byte) : ℚ := (b.toNat : ℚ) / ((fractionLoop 3 b.toNat 1 0).2 : ℚ)

/-- `CNT` is about to wrap (R110). -/
def atWrap (s : State) : Bool := s.cnt == s.par.period - 1

/-- `OVF_SERVICE` is enabled (R111). -/
def serviceEnabled (s : State) : Bool := s.ie && s.ovp

/-- The `SYNCLOW` width test (R172): the pulse is too short, or the measurement timed out. -/
def ackTooShort (w : Time) : Bool := decide (w < Config.syncLowMinUs)

end Sys2Proof.Machine
end

