-- ==== Sys2Proof/Machine/Clock.lean ====
section
/-! DEFINITION. The microsecond clock (spec/40_clock.md): `TICK`, `OVF_SERVICE`, `SET_IE`, `NOW`. -/

namespace Sys2Proof.Machine

/-- `TICK` (R110). A wrap while `OVP` is set loses an overflow and is no fault (R117). -/
def execTick (s : State) : Result :=
  .next (if atWrap s then { s with cnt := 0, ovp := true } else { s with cnt := s.cnt + 1 })

/-- `OVF_SERVICE` (R111). While it is not enabled the IRQ agent has no step: nothing happens (R67, R100; log 9). -/
def execOvfService (s : State) : Result :=
  .next (if serviceEnabled s then { s with ovf := s.ovf + 1, ovp := false } else s)

/-- `SET_IE(v)` (R112). -/
def execSetIe (v : Bool) (s : State) : Result := .next { s with ie := v }

/-- `NOW` (R113): writes nothing but what it returns. -/
def execNow (s : State) : Result := .next (answer (.time (nowOf s)) s)

end Sys2Proof.Machine
end

