-- ==== Sys2Proof/Machine/Pad.lean ====
section
/-! DEFINITION. The pad controller and the line (spec/41_gpio.md). -/

namespace Sys2Proof.Machine

/-- The pad becomes a driven output at level low (R130). -/
def driveLow (s : State) : State := { s with gmode := .outputLow }

/-- The pad stops driving and its pull-up is on (R131). -/
def releaseLine (s : State) : State := { s with gmode := .inputPullup }

/-- `SET_OUTPUT_LOW` (R130). -/
def execSetOutputLow (s : State) : Result := .next (driveLow s)

/-- `SET_INPUT_PULLUP` (R131). -/
def execSetInputPullup (s : State) : Result := .next (releaseLine s)

/-- `READ` (R132). -/
def execRead (s : State) : Result := .next (answer (.level (line s)) s)

/-- `SENSOR_DRIVE(v)` (R133). -/
def execSensorDrive (v : Bool) (s : State) : Result := .next { s with sens := v }

end Sys2Proof.Machine
end

