-- ==== Sys2Proof/Machine/Decoder.lean ====
section
/-! DEFINITION. The protocol state machine (spec/43_decoder.md): `GET_READING` and the twelve stage steps. -/

namespace Sys2Proof.Machine

/-- `GET_READING` (R165): ignored, not queued, while an attempt runs (R183). -/
def execGetReading (s : State) : Result := .next (if s.busy then s else { s with start := true })

/-- The result `Failed{Unknown}` with zero value bytes, an empty frame, no bit received (R166, R245). -/
def clearResult (s : State) : State :=
  { s with
    resValid := false, resReason := .unknown, humI := 0, humF := 0, tmpI := 0, tmpF := 0, frame := [], bitIdx := 0 }

/-- The attempt begins (R166). -/
def beginAttempt (s : State) : State :=
  { driveLow (clearResult s) with
    start := false, busy := true, donef := false, t0 := nowOf s, stage := .reset, phase := .skip }

/-- `ST_IDLE` (R166). -/
def execStIdle (s : State) : Result := .next (if s.start then beginAttempt s else s)

/-- `ST_RESET` (R167). -/
def execStReset (s : State) : Result :=
  .next (if resetLow s ≤ elapsed s then { s with stage := .release } else s)

/-- `ST_RELEASE` (R168). -/
def execStRelease (s : State) : Result :=
  .next { releaseLine s with t0 := nowOf s, stage := .synclow, phase := .skip }

/-- The end of the `SYNCLOW` measurement with sample `w` (R172). -/
def synclowDone (w : Time) (s : State) : State :=
  if ackTooShort w then failWith .syncTimeout1 { s with sample := w, phase := .skip }
  else { s with sample := w, phase := .skip, stage := .synchigh, t0 := nowOf s }

/-- `synclow_step` in a given phase (R172). -/
def synclowStep (ph : Phase) (s : State) : Result :=
  match synclowPulse ph s with
  | .wait => .next s
  | .lead => .next { s with phase := .lead }
  | .trail t => .next { s with ts := t, phase := .trail }
  | .done w => .next (synclowDone w s)

/-- `ST_SYNCLOW_SKIP` (R169). -/
def execStSynclowSkip (s : State) : Result := synclowStep .skip s

/-- `ST_SYNCLOW_LEAD` (R170). -/
def execStSynclowLead (s : State) : Result := synclowStep .lead s

/-- `ST_SYNCLOW_TRAIL` (R171). -/
def execStSynclowTrail (s : State) : Result := synclowStep .trail s

/-- `ST_SYNCHIGH` (R173). -/
def execStSynchigh (s : State) : Result :=
  match synchighPoll s with
  | .hit t => .next { s with stage := .receivebits, phase := .skip, t0 := t }
  | .timeout => .next (failWith .syncTimeout2 s)
  | .pending => .next s

/-- Where the attempt goes once `n` bits are stored: to `VALIDATE` after the fortieth, else to the next cell, whose
origin is taken now (R177). -/
def afterBit (n : Nat) (s : State) : State :=
  if n = Config.nBits then { s with stage := .validate } else { s with t0 := nowOf s }

/-- A bit has been received (R177): store it at `BITIDX` as it was before the step, and go on. -/
def takeBit (w : Time) (s : State) : Result :=
  match storeBit s.frame s.bitIdx.toNat (bitOf w) with
  | some m => .next (afterBit (s.bitIdx.toNat + 1) { s with sample := w, phase := .skip, frame := m, bitIdx := s.bitIdx + 1 })
  | none => .fault .frameAddress

/-- The end of a bit's measurement with sample `w` (R177). -/
def rxDone (w : Time) (s : State) : Result :=
  if w = 0 then .next (failWith .dataTimeout { s with sample := w, phase := .skip }) else takeBit w s

/-- `rx_step` in a given phase (R177). -/
def rxStep (ph : Phase) (s : State) : Result :=
  match rxPulse ph s with
  | .wait => .next s
  | .lead => .next { s with phase := .lead }
  | .trail t => .next { s with ts := t, phase := .trail }
  | .done w => rxDone w s

/-- `ST_RX_SKIP` (R174). -/
def execStRxSkip (s : State) : Result := rxStep .skip s

/-- `ST_RX_LEAD` (R175). -/
def execStRxLead (s : State) : Result := rxStep .lead s

/-- `ST_RX_TRAIL` (R176). -/
def execStRxTrail (s : State) : Result := rxStep .trail s

/-- The frame becomes the valid result (R178). -/
def publishFrame (s : State) : State :=
  { s with
    resValid := true, humI := Memory.read s.frame 0, humF := Memory.read s.frame 1,
    tmpI := Memory.read s.frame 2, tmpF := Memory.read s.frame 3, stage := .done }

/-- `ST_VALIDATE` (R178). -/
def execStValidate (s : State) : Result :=
  .next (if frameValid s.frame then publishFrame s else failWith .checksumMismatch s)

/-- `ST_DONE` (R179). -/
def execStDone (s : State) : Result := .next (endAttempt s)

end Sys2Proof.Machine
end

