-- ==== Sys2Proof/Machine/Reset.lean ====
section
/-! DEFINITION. `HW_RESET` (spec/70_reset_and_hazards.md rules R245 to R247). -/

namespace Sys2Proof.Machine

/-- `HW_RESET` (R245). `T0`, `TS` and `SAMPLE` become free values (log 3). `SENS` is the environment's and is kept; so are
the model's own inputs, while a primitive call in progress is dropped (log 14). -/
def execHwReset (s : State) : Result :=
  .next
    { clearResult s with
      stage := .idle, phase := .skip, busy := false, donef := false, start := false,
      cnt := 0, ovf := 0, ovp := false, ie := false, gmode := .inputPullup,
      t0 := Config.unspecified s.unspecIx,
      ts := Config.unspecified (s.unspecIx + 1),
      sample := Config.unspecified (s.unspecIx + 2),
      unspecIx := s.unspecIx + 3, call := .none, ret := .none }

end Sys2Proof.Machine
end

