-- ==== Sys2Proof/Machine/Value.lean ====
section
/-! DEFINITION. `CHECKSUM` and `FRACTIONAL` as calls of their own (spec/44_checksum_result.md rules R202, R204). -/

namespace Sys2Proof.Machine

/-- `CHECKSUM(b0, b1, b2, b3)` (R202). -/
def execChecksum (s : State) : Result :=
  .next (answer (.byte (checksumOf s.args.b0 s.args.b1 s.args.b2 s.args.b3)) s)

/-- `FRACTIONAL(b)` (R204). -/
def execFractional (s : State) : Result :=
  .next (answer (.fraction (scaleOf s.args.b0) (fractionOf s.args.b0)) s)

end Sys2Proof.Machine
end

