-- ==== Sys2Proof/Machine/Wait.lean ====
section
/-! DEFINITION. Level wait and pulse measurement as calls of their own (spec/42_wait_pulse.md rules R146, R148). Each issue of
the word is one poll, one iteration of the loop (R99 (d)); the call is over when what it returned is not `pending` (log 8). -/

namespace Sys2Proof.Machine

/-- `WAIT_FOR_LEVEL(lv, TO, t0)` (R146). -/
def execWaitForLevel (l : Level) (s : State) : Result :=
  match poll l (waitOperands l s).1 (waitOperands l s).2 (line s) (nowOf s) with
  | .hit _ => .next (answer (.bool true) { s with call := .none })
  | .timeout => .next (answer (.bool false) { s with call := .none })
  | .pending => .next (answer .pending { s with call := .waiting l (waitOperands l s).1 (waitOperands l s).2 })

/-- The measurement goes on in phase `ph` with start stamp `st`. -/
def keepMeasuring (l : Level) (c : PulseCall) (ph : Phase) (st : Time) (s : State) : State :=
  answer .pending { s with call := .measuring l c.timeout c.origin ph st }

/-- `MEASURE_PULSE(lv, TO)` (R148). -/
def execMeasurePulse (l : Level) (s : State) : Result :=
  let c := pulseOperands l s
  match pulseStep l c.timeout c.phase c.origin c.start (line s) (nowOf s) with
  | .wait => .next (keepMeasuring l c c.phase c.start s)
  | .lead => .next (keepMeasuring l c .lead c.start s)
  | .trail t => .next (keepMeasuring l c .trail t s)
  | .done w => .next (answer (.sample w) { s with call := .none })

end Sys2Proof.Machine
end

