-- ==== Sys2Proof/Machine/Dispatch.lean ====
section
/-! DEFINITION. The meaning of every operation, one arm each. -/

namespace Sys2Proof.Machine

def exec (i : Instr) (s : State) : Host.Outcome State Fault Refusal :=
  match i with
  | .stIdle => Sys2Proof.Machine.execStIdle s
  | .stReset => Sys2Proof.Machine.execStReset s
  | .stRelease => Sys2Proof.Machine.execStRelease s
  | .stSynclowSkip => Sys2Proof.Machine.execStSynclowSkip s
  | .stSynclowLead => Sys2Proof.Machine.execStSynclowLead s
  | .stSynclowTrail => Sys2Proof.Machine.execStSynclowTrail s
  | .stSynchigh => Sys2Proof.Machine.execStSynchigh s
  | .stRxSkip => Sys2Proof.Machine.execStRxSkip s
  | .stRxLead => Sys2Proof.Machine.execStRxLead s
  | .stRxTrail => Sys2Proof.Machine.execStRxTrail s
  | .stValidate => Sys2Proof.Machine.execStValidate s
  | .stDone => Sys2Proof.Machine.execStDone s
  | .now => Sys2Proof.Machine.execNow s
  | .setOutputLow => Sys2Proof.Machine.execSetOutputLow s
  | .setInputPullup => Sys2Proof.Machine.execSetInputPullup s
  | .read => Sys2Proof.Machine.execRead s
  | .waitForLevel l => Sys2Proof.Machine.execWaitForLevel l s
  | .measurePulse l => Sys2Proof.Machine.execMeasurePulse l s
  | .checksum => Sys2Proof.Machine.execChecksum s
  | .fractional => Sys2Proof.Machine.execFractional s
  | .tick => Sys2Proof.Machine.execTick s
  | .ovfService => Sys2Proof.Machine.execOvfService s
  | .sensorDrive v => Sys2Proof.Machine.execSensorDrive v s
  | .getReading => Sys2Proof.Machine.execGetReading s
  | .hwReset => Sys2Proof.Machine.execHwReset s
  | .setIe v => Sys2Proof.Machine.execSetIe v s

end Sys2Proof.Machine
end

