-- ==== Sys2Proof/Machine/Fetch.lean ====
section
/-! DEFINITION. Where the next operation comes from: an issued word, the agenda of moves, or the free schedule
(spec/20_memory.md rule R67, spec/43_decoder.md rule R185; logs 5 and 6). -/

namespace Sys2Proof.Machine

/-- The operation word of the DECODER's next step: `OPW[4:0]` = {`STAGE`, `PHASE`} (R92, R185). -/
def decoderWord (s : State) : Byte := stageWord s.stage.code s.phase.code

/-- Who moves next when no word is issued: the agenda says, or else nobody does and it is free (R67). -/
def upcoming (s : State) : Move :=
  match s.agenda with
  | [] => Config.nextMove s.turn
  | m :: _ => m

/-- The operation word the next step runs. -/
def nextWord (s : State) : Byte :=
  match s.issued with
  | some w => w
  | none => (upcoming s).word (decoderWord s)

/-- The state with the next operation taken from where it stood. No register of the block is touched. -/
def taken (s : State) : State :=
  match s.issued with
  | some _ => { s with issued := none }
  | none =>
    match s.agenda with
    | [] => { s with turn := s.turn + 1 }
    | _ :: rest => { s with agenda := rest }

/-- A stage word is a step of the block only where (`STAGE`, `PHASE`) select it (R185); other words always are. -/
def selected (s : State) (w : Byte) : Bool := opField w 6 2 != 0 || w == decoderWord s

/-- What a word that names no operation does: an issued one is refused, the DECODER's own is stuck (R96). -/
def noOperation (s : State) (e : DecodeError) : Result :=
  match s.issued with
  | some _ => .refused (.reservedWord e)
  | none => .fault .stuck

/-- Put a word where the next step takes its operation. A stage word is selected by (`STAGE`, `PHASE`), which are set
to its bits [4:0] (R93). -/
def placeWord (w : Byte) (s : State) : State :=
  if opField w 5 3 = 0 then
    { s with
      stage := Stage.ofCode (w.extractLsb' 2 3), phase := Phase.ofCode (w.extractLsb' 0 2), issued := some w }
  else { s with issued := some w }

end Sys2Proof.Machine
end

