-- ==== Sys2Proof/Machine/Step.lean ====
section
/-! DEFINITION. One atomic step of one agent (spec/20_memory.md rule R67). -/

namespace Sys2Proof.Machine

/-- One step: the next operation is taken, decoded and executed. -/
def step (s : State) : Host.Outcome State Fault Refusal :=
  match decode (nextWord s) with
  | .error e => noOperation s e
  | .ok i => if selected s (nextWord s) then exec i (taken s) else .fault .notSelected

/-- The state with the instruction of `nbits` bits `w` placed where `step` takes its next operation. -/
def State.withFetchWord (s : State) (nbits w : Nat) : State := placeWord (tableByte nbits w) s

end Sys2Proof.Machine
end

