-- ==== Sys2Proof/Machine/Ports.lean ====
section
/-! DEFINITION. What the block shows: the output ports (spec/30_encoding.md rule R100), the frame as one number (rule R81) and
the reading a result denotes (spec/44_checksum_result.md rule R205). Functions of State; nothing here is state. -/

namespace Sys2Proof.Machine

/-- The output ports, and `pad_in`, the line the block reads (R100). -/
structure Ports where
  busy : Bool
  done : Bool
  resValid : Bool
  resReason : BitVec 3
  humInt : Byte
  humFrac : Byte
  tmpInt : Byte
  tmpFrac : Byte
  humK : BitVec 2
  tmpK : BitVec 2
  padOe : Bool
  padOut : Bool
  padPue : Bool
  padIn : Bool
  irq : Bool
deriving DecidableEq, Repr

/-- The ports of a state (R33, R39, R41, R100). `pad_out` is the constant 0 (R136). -/
def portsOf (s : State) : Ports where
  busy := s.busy
  done := s.donef
  resValid := s.resValid
  resReason := s.resReason.code
  humInt := s.humI
  humFrac := s.humF
  tmpInt := s.tmpI
  tmpFrac := s.tmpF
  humK := scaleOf s.humF
  tmpK := scaleOf s.tmpF
  padOe := s.gmode.code
  padOut := false
  padPue := !s.gmode.code
  padIn := (line s).code
  irq := s.ovp

/-- A `Reading` (R16). The values are the exact rationals; no float is modelled (R206, log 15). -/
inductive Reading where
  | valid (temperature humidity : ℚ)
  | failed (reason : ReasonCode)
deriving DecidableEq, Repr

/-- The reading the result registers denote (R89, R205); meaningful while `done` = 1 and `busy` = 0. -/
def readingOf (s : State) : Reading :=
  if s.resValid then .valid (s.tmpI.toNat + fractionOf s.tmpF) (s.humI.toNat + fractionOf s.humF)
  else .failed s.resReason

/-- The frame as one 40-bit number, the first bit received as bit 39 (R81). -/
def frameWord (m : Memory) : BitVec 40 :=
  Memory.read m 0 ++ Memory.read m 1 ++ Memory.read m 2 ++ Memory.read m 3 ++ Memory.read m 4

end Sys2Proof.Machine
end

