-- ==== Sys2Proof/Machine/Schedule.lean ====
section
/-! DEFINITION. Schedules: drivers of `step` that list the moves and let the machine take them. The machine itself leaves the
interleaving open (log 5). Any schedule (spec/20_memory.md rule R67), and the reference schedule (spec/70_reset_and_hazards.md rule
R272). -/

namespace Sys2Proof.Machine

/-- Let one agent move now. -/
def moveNow (m : Move) (s : State) : Result := step { s with agenda := m :: s.agenda }

/-- `n` moves of any schedule, from its move number `k` (R67). -/
def runSchedule (schedule : Nat → Move) : (k n : Nat) → State → Result
  | _, 0, s => .next s
  | k, n + 1, s => andThen (moveNow (schedule k) s) (runSchedule schedule (k + 1) n)

/-- Part (2) of R272: DECODER steps until a step is a stutter, at most `fuel` of them. -/
def settle : (fuel : Nat) → State → Result
  | 0, s => .next s
  | fuel + 1, s => andThen (moveNow .decoder s) fun s' => if s' = s then .next s else settle fuel s'

/-- More DECODER steps than an attempt has that are not stutters (129, R184; log 21). -/
def settleFuel : Nat := 130

/-- Part (1): the sensor takes the drive the waveform has, and a command is issued where there is one. -/
def environment (drive command : Bool) (s : State) : Result :=
  andThen (if drive = s.sens then .next s else moveNow (.drive drive) s) fun s' =>
    if command then moveNow .command s' else .next s'

/-- Part (3): the overflow service, if it is enabled. -/
def service (s : State) : Result := if serviceEnabled s then moveNow .irq s else .next s

/-- One tick of the reference schedule: ENV, then DECODER until it stutters, then IRQ, then TIMER. -/
def referenceTick (drive command : Bool) (s : State) : Result :=
  andThen (environment drive command s) fun s₁ =>
    andThen (settle settleFuel s₁) fun s₂ =>
      andThen (service s₂) fun s₃ => moveNow .timer s₃

/-- `n` ticks of the reference schedule from tick number `k`, under a waveform and a command stimulus. -/
def referenceRun (drive command : Nat → Bool) : (k n : Nat) → State → Result
  | _, 0, s => .next s
  | k, n + 1, s => andThen (referenceTick (drive k) (command k) s) (referenceRun drive command (k + 1) n)

/-- How every reference run starts: `HW_RESET`, then `SET_IE(1)`. -/
def referenceStart (s : State) : Result := andThen (moveNow .reset s) (moveNow (.enable true))

end Sys2Proof.Machine
end

