-- ==== Sys2Proof/Safety.lean ====
section
/-! DEFINITION. What counts as a legal state and a safe run, in the terms the statements use. -/

namespace Sys2Proof.Machine

/-! ### The invariant (spec/10_state.md rule R44) -/

/-- The stages in which the attempt has not yet got a result. -/
def Stage.running : Stage → Bool
  | .reset | .release | .synclow | .synchigh | .receivebits | .validate => true
  | .idle | .done => false

/-- The stages before the first bit is received (R26). -/
def Stage.beforeBits : Stage → Bool
  | .reset | .release | .synclow | .synchigh => true
  | .idle | .receivebits | .validate | .done => false

/-- What R44 (a) to (g) say of every state a run from hardware reset reaches, with what they rest on. -/
structure LegalState (s : State) : Prop where
  /-- The parameters are in their ranges (R9). -/
  parWf : s.par.wf = true
  /-- `CNT` counts 0 to `P` − 1 (R34). -/
  cntBelow : s.cnt < s.par.period
  /-- The frame store is in canonical form (log 11). -/
  frameWf : Memory.wf s.frame = true
  /-- R44 (a): `PHASE` is never 3. -/
  phaseLegal : s.phase ≠ .reserved
  /-- R44 (a): `PHASE` is 0 outside the two measuring stages. -/
  phaseSkip : s.stage ≠ .synclow → s.stage ≠ .receivebits → s.phase = .skip
  /-- R26: no bit is counted before the first is stored. -/
  bitsNone : s.stage.beforeBits = true → s.bitIdx = 0
  /-- R44 (b). -/
  bitsBelow : s.stage = .receivebits → s.bitIdx.toNat < 40
  /-- R44 (b). -/
  bitsAll : s.stage = .validate → s.bitIdx.toNat = 40
  /-- R44 (b). -/
  bitsMost : s.bitIdx.toNat ≤ 40
  /-- R44 (c). -/
  busyIff : s.busy = true ↔ s.stage ≠ .idle
  /-- R42, R183: no command waits while an attempt runs. -/
  startIdle : s.start = true → s.stage = .idle
  /-- R44 (d). -/
  padIff : s.gmode = .outputLow ↔ s.stage = .reset ∨ s.stage = .release
  /-- R29: `DONEF` is cleared when an attempt starts. -/
  doneIdle : s.donef = true → s.stage = .idle
  /-- R182: no result before the attempt has one. -/
  noResultYet : s.stage.running = true → s.resValid = false ∧ s.resReason = .unknown
  /-- R44 (g): a completed attempt never shows `Unknown`. -/
  resultKnown : s.stage = .done ∨ s.donef = true → s.resValid = true ∨ s.resReason ≠ .unknown
  /-- R44 (e): a valid result comes from a frame whose checksum matched. -/
  validFrame : s.resValid = true →
    s.resReason = .unknown ∧ frameValid s.frame = true ∧
      s.humI = Memory.read s.frame 0 ∧ s.humF = Memory.read s.frame 1 ∧
      s.tmpI = Memory.read s.frame 2 ∧ s.tmpF = Memory.read s.frame 3
  /-- R44 (f). -/
  failedZero : s.resValid = false → s.humI = 0 ∧ s.humF = 0 ∧ s.tmpI = 0 ∧ s.tmpF = 0
  /-- No word issued from outside waits: the agents move (log 6). -/
  fromAgents : s.issued = none

/-! ### Kinds of operations -/

/-- The stage steps (R93). -/
def isStageStep : Instr → Bool
  | .stIdle | .stReset | .stRelease | .stSynclowSkip | .stSynclowLead | .stSynclowTrail => true
  | .stSynchigh | .stRxSkip | .stRxLead | .stRxTrail | .stValidate | .stDone => true
  | .now | .setOutputLow | .setInputPullup | .read | .waitForLevel _ | .measurePulse _ => false
  | .checksum | .fractional | .tick | .ovfService | .sensorDrive _ | .getReading | .hwReset | .setIe _ => false

/-- The steps of `SYNCLOW` (R216). -/
def isSynclowStep (i : Instr) : Prop := i = .stSynclowSkip ∨ i = .stSynclowLead ∨ i = .stSynclowTrail

/-- The steps of `RECEIVEBITS` (R216). -/
def isRxStep (i : Instr) : Prop := i = .stRxSkip ∨ i = .stRxLead ∨ i = .stRxTrail

/-! ### Runs of operations and the premise on durations (spec/40_clock.md rules R114, R117) -/

/-- A sequence of operations, each executed on the state the one before it left. -/
def runOps : List Instr → State → Result
  | [], s => .next s
  | i :: is, s => andThen (exec i s) (runOps is)

/-- The operation wraps `CNT` while `OVP` is set: an overflow is lost (R117). -/
def overflowLost (i : Instr) (s : State) : Bool := decide (i = .tick) && atWrap s && s.ovp

/-- No overflow is lost in the sequence (R114). -/
def noOverflowLost : List Instr → State → Bool
  | [], _ => true
  | i :: is, s =>
    !overflowLost i s &&
      match exec i s with
      | .next s' => noOverflowLost is s'
      | .fault _ => true
      | .refused _ => true

/-- How many `TICK` steps the sequence has: what it adds to the ghost `TOTAL` (R14). -/
def ticksIn (is : List Instr) : Nat := is.count .tick

/-! ### Unspecified registers (spec/10_state.md rule R44 (h)) -/

/-- Two states that differ at most in registers no step will read before writing them: `SAMPLE`, `T0` in `IDLE`, and `TS`
outside `TRAIL`. -/
structure SameButUnread (s₁ s₂ : State) : Prop where
  rest : { s₁ with t0 := s₂.t0, ts := s₂.ts, sample := s₂.sample } = s₂
  origin : s₁.stage ≠ .idle → s₁.t0 = s₂.t0
  stamp : s₁.phase = .trail → s₁.ts = s₂.ts

/-! ### Progress of an attempt (spec/43_decoder.md rule R184) -/

/-- `PHASE` as a number. -/
def Phase.index (p : Phase) : Nat := p.code.toNat

/-- How far the attempt has come: every step of the DECODER that is not a stutter moves on by at least one (R184, R272). -/
def rank (s : State) : Nat :=
  match s.stage with
  | .idle => 0
  | .reset => 1
  | .release => 2
  | .synclow => 3 + s.phase.index
  | .synchigh => 6
  | .receivebits => 7 + 3 * s.bitIdx.toNat + s.phase.index
  | .validate => 127
  | .done => 128

/-- The elapsed time at which a stage goes on whatever the line does (R270); 0 for a stage that does not wait. -/
def stageLimit (s : State) : Time :=
  match s.stage with
  | .reset => resetLow s
  | .synclow => Config.syncLowTimeoutUs
  | .synchigh => syncHighTimeout s
  | .receivebits => Config.bitTimeoutUs
  | .idle | .release | .validate | .done => 0

/-- How many waits an attempt has (R184): `RESET`, `SYNCLOW`, `SYNCHIGH` and the forty cells. -/
def attemptWaits : Nat := 3 + Config.nBits

/-- What the clock time of a whole attempt stays below under the reference schedule, in microseconds (R184, R273): the sum of the
budgets of its waits, each of which may overshoot its constant by less than one tick. -/
def attemptBudget (p : Config.Params) : Nat :=
  p.resetLowUs + Config.syncLowTimeoutUs.toNat + p.syncHighTimeoutUs + Config.nBits * Config.bitTimeoutUs.toNat +
    attemptWaits * p.usPerTick

/-! ### The premises on a schedule (spec/43_decoder.md rule R184, spec/20_memory.md rule R67) -/

/-- How many `TICK` moves a schedule has among its moves number `a` to `b` − 1. -/
def ticksBetween (schedule : Nat → Move) (a b : Nat) : Nat :=
  ((List.range' a (b - a)).map schedule).count .timer

/-- Weak fairness: the DECODER keeps stepping (R184), and the TIMER, which is never blocked (R67), keeps ticking. -/
structure FairSchedule (schedule : Nat → Move) : Prop where
  decoder : ∀ n, ∃ m, n ≤ m ∧ schedule m = .decoder
  timer : ∀ n, ∃ m, n ≤ m ∧ schedule m = .timer

/-- No more than `lag` ticks pass without a DECODER step (the poll lag of R150 and R257). Model's choice as a premise beside
fairness: an elapsed time is held modulo 2^32 (R116), so polls that came 2^32 µs apart would never see one run out (log 22). -/
def LagAtMost (lag : Nat) (schedule : Nat → Move) : Prop :=
  ∀ a b, lag < ticksBetween schedule a b → ∃ j, a ≤ j ∧ j < b ∧ schedule j = .decoder

/-- No overflow is lost while a schedule runs from a state (R114, R117). -/
def NoOverflowLostAlong (schedule : Nat → Move) (s : State) : Prop :=
  ∀ n t, runSchedule schedule 0 n s = .next t → schedule n = .timer → overflowLost .tick t = false

/-- The order of the stages (R180): where a stage may lead, itself apart. -/
def mayFollow : Stage → Stage → Bool
  | .idle, .reset => true
  | .reset, .release => true
  | .release, .synclow => true
  | .synclow, .synchigh => true
  | .synclow, .done => true
  | .synchigh, .receivebits => true
  | .synchigh, .done => true
  | .receivebits, .validate => true
  | .receivebits, .done => true
  | .validate, .done => true
  | .done, .idle => true
  | _, _ => false

/-! ### Reception of a frame (spec/30_encoding.md rule R81) -/

/-- Store bits `i`, `i` + 1, … of the frame, in reception order. -/
def receiveBits : (i : Nat) → List Bool → Memory → Option Memory
  | _, [], m => some m
  | i, b :: bs, m =>
    match storeBit m i b with
    | some m' => receiveBits (i + 1) bs m'
    | none => none

end Sys2Proof.Machine
end

