-- ==== Sys2Proof/Certificates/Slice0/Obligations.lean ====
section
/-! DEFINITION. The statements for the provers. Each docstring names the rule of spec/ it formalises, or says that it rests on a
choice of the spec's own (a row D<n> of spec/92_eei_decisions.md) or of the model's (a log entry of notes/assumptions). -/

open Sys2Proof Sys2Proof.Machine

/-! ### Operation words and the step -/

/-- A step runs the operation its word names on the state with that word taken: an issued word first (a stage word only where
(`STAGE`, `PHASE`) select it), then the agenda's first move, then the free schedule. Model's choice: logs 5 and 6. -/
def Obligations.StepRunsTheDecodedOperation : Prop :=
  ∀ (s : State) (i : Instr),
    (∀ w, s.issued = some w → decode w = .ok i → (isStageStep i = true → w = decoderWord s) →
      step s = exec i { s with issued := none }) ∧
    (∀ m rest, s.issued = none → s.agenda = m :: rest → decode (m.word (decoderWord s)) = .ok i →
      step s = exec i { s with agenda := rest }) ∧
    (s.issued = none → s.agenda = [] → decode ((Config.nextMove s.turn).word (decoderWord s)) = .ok i →
      step s = exec i { s with turn := s.turn + 1 })

/-- R185: one DECODER step is selected by (`STAGE`, `PHASE`), the one whose `OPW[4:0]` equals them. Its code is
spec/92_eei_decisions.md D16. -/
def Obligations.StageAndPhaseSelectTheStep : Prop :=
  ∀ (s : State) (rest : List Move), s.issued = none → s.agenda = .decoder :: rest →
    (∀ i, decode (decoderWord s) = .ok i → isStageStep i = true ∧ step s = exec i { s with agenda := rest }) ∧
      (∀ e, decode (decoderWord s) = .error e → step s = .fault .stuck) ∧
      ((∃ e, decode (decoderWord s) = .error e) ↔
        s.phase = .reserved ∨ (s.phase ≠ .skip ∧ s.stage ≠ .synclow ∧ s.stage ≠ .receivebits))

/-- R96 (a): a word that names no operation is refused (issued from outside); a stage word that (`STAGE`, `PHASE`) do not select
is no step (log 6). -/
def Obligations.ReservedWordsAreRefused : Prop :=
  ∀ (s : State) (w : Byte), s.issued = some w →
    (∀ e, decode w = .error e → step s = .refused (.reservedWord e)) ∧
      (∀ i, decode w = .ok i → isStageStep i = true → w ≠ decoderWord s → step s = .fault .notSelected)

/-- Sanity: words written out from R93 to R95 decode to what they stand for. -/
def Obligations.KnownWordsDecode : Prop :=
  decode 0b00001101#8 = .ok .stSynclowLead ∧ decode 0b00010110#8 = .ok .stRxTrail ∧
    decode 0b01100100#8 = .ok (.waitForLevel .high) ∧ decode 0b01101000#8 = .ok (.measurePulse .low) ∧
    decode 0b10010100#8 = .ok (.sensorDrive true) ∧ decode 0b10101100#8 = .ok (.setIe true) ∧
    decode 0b01000000#8 = .ok .now ∧ decode 0b10100000#8 = .ok .hwReset

/-- Decoding and encoding agree both ways: a word decodes to an operation exactly when it is that operation's word. -/
def Obligations.DecodeIsTheInverseOfEncode : Prop :=
  ∀ (w : Byte) (i : Instr), decode w = .ok i ↔ encode i = w

/-- R96 (a): the words that name no operation are exactly the reserved ones. -/
def Obligations.DecoderRefusesExactlyTheReservedWords : Prop :=
  ∀ w : Byte, (∃ i, decode w = .ok i) ↔ wordWf w = true

/-! ### The clock -/

/-- R110: `TICK`, OPW 0x80, counts, or wraps and marks the overflow; one tick of the ghost `TOTAL`. -/
def Obligations.TickAdvancesTheCounter : Prop :=
  encode .tick = 0x80#8 ∧ ticksIn [.tick] = 1 ∧ ∀ s : State,
    (s.cnt = s.par.period - 1 → exec .tick s = .next { s with cnt := 0, ovp := true }) ∧
      (s.cnt ≠ s.par.period - 1 → exec .tick s = .next { s with cnt := s.cnt + 1 })

/-- R111: the pending overflow is counted, modulo 2^32, and the clock value is the same before and after. -/
def Obligations.OverflowServiceCountsOnce : Prop :=
  ∀ s : State, s.ie = true → s.ovp = true →
    ∃ t : State, exec .ovfService s = .next t ∧ t = { s with ovf := BitVec.ofNat 32 (s.ovf.toNat + 1), ovp := false } ∧
      nowOf t = nowOf s

/-- While `OVF_SERVICE` is not enabled nothing happens. Model's choice: log 9. -/
def Obligations.OverflowServiceNotEnabledDoesNothing : Prop :=
  ∀ s : State, (s.ie = false ∨ s.ovp = false) → exec .ovfService s = .next s

/-- `SET_IE(v)` sets the enable and nothing else; a pending overflow stays pending. The spec's own decision D9. -/
def Obligations.SetIeWritesTheEnableOnly : Prop :=
  ∀ (v : Bool) (s : State),
    ∃ t : State, exec (.setIe v) s = .next t ∧ t = { s with ie := v } ∧ t.ovp = s.ovp

/-- R113: `NOW` returns ((`OVF` + `OVP`) mod 2^32 · `P` + `CNT`) · `U` mod 2^32 and writes no register. What it returns stands in the
model's own field `ret` (log 7). -/
def Obligations.NowReturnsTheFoldedClock : Prop :=
  ∀ s : State, exec .now s = .next { s with ret := .time (nowOf s) } ∧
    (nowOf s).toNat =
      (((s.ovf.toNat + (if s.ovp then 1 else 0)) % 2 ^ 32 * s.par.period + s.cnt) * s.par.usPerTick) % 2 ^ 32

/-- R114, R115 (the spec's own derivation): over any sequence of operations without a hardware reset in which no overflow is
lost, the clock value grows by `U` a tick, modulo 2^32. -/
def Obligations.ClockCountsEveryTick : Prop :=
  ∀ (is : List Instr) (s t : State), s.cnt < s.par.period → Instr.hwReset ∉ is →
    noOverflowLost is s = true → runOps is s = .next t →
    nowOf t = nowOf s + BitVec.ofNat 32 (ticksIn is * s.par.usPerTick)

/-- R117 (the spec's own decision D33): a wrap while `OVP` is set is no fault; the clock value comes out `P` · `U` less than one
tick on. -/
def Obligations.LostOverflowStepsTheClockBack : Prop :=
  ∀ s : State, s.par.wf = true → s.cnt = s.par.period - 1 → s.ovp = true →
    ∃ t : State, exec .tick s = .next t ∧ t = { s with cnt := 0, ovp := true } ∧
      nowOf t = nowOf s + BitVec.ofNat 32 s.par.usPerTick - BitVec.ofNat 32 (s.par.period * s.par.usPerTick)

/-- R118: nothing but the clock's own operations and `HW_RESET` writes `CNT`, `OVF`, `OVP`. -/
def Obligations.ClockRegistersAreTheClocksOwn : Prop :=
  ∀ (i : Instr) (s t : State), exec i s = .next t →
    (t.cnt ≠ s.cnt → i = .tick ∨ i = .hwReset) ∧
      (t.ovf ≠ s.ovf → i = .ovfService ∨ i = .hwReset) ∧
      (t.ovp ≠ s.ovp → i = .tick ∨ i = .ovfService ∨ i = .hwReset)

/-! ### The pad and the line -/

/-- `SET_OUTPUT_LOW`: the pad drives low and the line is low whatever the sensor does (decisions D1, D25). -/
def Obligations.SetOutputLowPullsTheLine : Prop :=
  ∀ s : State, ∃ t : State, exec .setOutputLow s = .next t ∧ t = { s with gmode := .outputLow } ∧ line t = .low ∧
    (portsOf t).padOe = true ∧ (portsOf t).padOut = false ∧ (portsOf t).padPue = false

/-- `SET_INPUT_PULLUP`: the pad lets go and the line is high unless the sensor pulls it low (decisions D1, D25). -/
def Obligations.SetInputPullupReleasesTheLine : Prop :=
  ∀ s : State, ∃ t : State, exec .setInputPullup s = .next t ∧ t = { s with gmode := .inputPullup } ∧
    line t = (if s.sens then .low else .high) ∧ (portsOf t).padOe = false ∧ (portsOf t).padPue = true

/-- `READ` returns the line as the wired-AND of both drivers and writes no register. The line is the spec's own decision D25; the
field `ret` is the model's (log 7). -/
def Obligations.ReadReturnsTheLine : Prop :=
  ∀ s : State, exec .read s = .next { s with ret := .level (line s) } ∧
    (line s = .low ↔ s.gmode = .outputLow ∨ s.sens = true) ∧ (portsOf s).padIn = (line s).code

/-- `SENSOR_DRIVE(v)` changes the sensor's drive and nothing else (decision D25). -/
def Obligations.SensorDriveMovesTheLine : Prop :=
  ∀ (v : Bool) (s : State), ∃ t : State, exec (.sensorDrive v) s = .next t ∧ t = { s with sens := v } ∧
    (s.gmode = .inputPullup → line t = (if v then .low else .high)) ∧ (s.gmode = .outputLow → line t = .low)

/-! ### Poll, wait, measurement -/

/-- One poll: the level test first, then elapsed `>=` timeout, elapsed taken modulo 2^32 (decision D13). -/
def Obligations.PollTestsTheLevelFirst : Prop :=
  ∀ (lv l : Level) (limit t0 t : Time),
    (poll lv limit t0 l t = .hit t ↔ l = lv) ∧
      (poll lv limit t0 l t = .timeout ↔ l ≠ lv ∧ limit.toNat ≤ (t - t0).toNat) ∧
      (poll lv limit t0 l t = .pending ↔ l ≠ lv ∧ (t - t0).toNat < limit.toNat)

/-- `WAIT_FOR_LEVEL(l, limit, t0)`, begun or in progress, polls once: true on a match, false at the timeout, else it stays in
progress. No register of the block is written. Operands and result are the model's own fields (logs 7 and 8). -/
def Obligations.WaitForLevelPollsOnce : Prop :=
  ∀ (l : Level) (limit t0 : Time) (s : State),
    (s.call = .waiting l limit t0 ∨
      (s.call = .none ∧ s.args.timeout = limit ∧ (s.args.origin = some t0 ∨ (s.args.origin = none ∧ t0 = nowOf s)))) →
    (line s = l → exec (.waitForLevel l) s = .next { s with call := .none, ret := .bool true }) ∧
      (line s ≠ l → limit ≤ nowOf s - t0 →
        exec (.waitForLevel l) s = .next { s with call := .none, ret := .bool false }) ∧
      (line s ≠ l → nowOf s - t0 < limit →
        exec (.waitForLevel l) s = .next { s with call := .waiting l limit t0, ret := .pending })

/-- `MEASURE_PULSE(l, limit)` begins in its first wait with the origin taken at the call; with a timeout of 0 a line at the level
times out at once. No register of the block is written. Operands and result are the model's own fields (logs 7 and 8). -/
def Obligations.MeasurePulseBegins : Prop :=
  ∀ (l : Level) (s : State), s.call = .none →
    (line s ≠ l → exec (.measurePulse l) s =
      .next { s with call := .measuring l s.args.timeout (nowOf s) .lead (nowOf s), ret := .pending }) ∧
    (line s = l → s.args.timeout ≠ 0 → exec (.measurePulse l) s =
      .next { s with call := .measuring l s.args.timeout (nowOf s) .skip (nowOf s), ret := .pending }) ∧
    (line s = l → s.args.timeout = 0 → exec (.measurePulse l) s = .next { s with ret := .sample 0 })

/-- `MEASURE_PULSE` in progress: three chained waits on one origin; the width is the end stamp less the start stamp; a timeout in
any wait gives 0. No register of the block is written (logs 7 and 8). -/
def Obligations.MeasurePulseChainsThreeWaits : Prop :=
  ∀ (l : Level) (limit t0 st : Time) (ph : Phase) (s : State), ph ≠ .reserved →
    s.call = .measuring l limit t0 ph st →
    let wanted := if ph = .lead then l else l.other
    (line s = wanted →
      (ph = .skip → exec (.measurePulse l) s = .next { s with call := .measuring l limit t0 .lead st, ret := .pending }) ∧
      (ph = .lead →
        exec (.measurePulse l) s = .next { s with call := .measuring l limit t0 .trail (nowOf s), ret := .pending }) ∧
      (ph = .trail → exec (.measurePulse l) s = .next { s with call := .none, ret := .sample (nowOf s - st) })) ∧
    (line s ≠ wanted → limit ≤ nowOf s - t0 →
      exec (.measurePulse l) s = .next { s with call := .none, ret := .sample 0 }) ∧
    (line s ≠ wanted → nowOf s - t0 < limit → exec (.measurePulse l) s = .next { s with ret := .pending })

/-! ### Bit decode, checksum, value -/

/-- R202: `CHECKSUM`, OPW 0x70: the low 8 bits of the sum of four bytes; adding modulo 256 at every step gives the same. -/
def Obligations.ChecksumIsTheSumModulo256 : Prop :=
  encode .checksum = 0x70#8 ∧ ∀ b0 b1 b2 b3 : Byte,
    (checksumOf b0 b1 b2 b3).toNat = (b0.toNat + b1.toNat + b2.toNat + b3.toNat) % 256 ∧
      checksumOf b0 b1 b2 b3 = b0 + b1 + b2 + b3

/-- `CHECKSUM` issued on its own returns that byte and writes no register (operands and result: log 7). -/
def Obligations.ChecksumReturnsItsByte : Prop :=
  ∀ s : State, exec .checksum s =
    .next { s with ret := .byte (s.args.b0 + s.args.b1 + s.args.b2 + s.args.b3) }

/-- `FRACTIONAL(b)` returns (`K`, `b` / 10^`K`), `K` the number of divisions by 10 that bring `b` below 1. The exact pair is
the spec's own decision D20; operands and result: log 7. -/
def Obligations.FractionalDividesUntilBelowOne : Prop :=
  ∀ s : State,
    let b := s.args.b0.toNat
    let k := if b = 0 then 0 else if b ≤ 9 then 1 else if b ≤ 99 then 2 else 3
    exec .fractional s = .next { s with ret := .fraction (BitVec.ofNat 2 k) ((b : ℚ) / 10 ^ k) } ∧
      0 ≤ (b : ℚ) / 10 ^ k ∧ (b : ℚ) / 10 ^ k < 1

/-- The reading a valid result denotes: integer byte plus decimal fraction, unsigned, below 256; otherwise the reason
(decisions D20, D28). -/
def Obligations.ReadingIsIntegerPlusFraction : Prop :=
  ∀ s : State,
    (s.resValid = true → ∃ tf hf : ℚ,
      readingOf s = .valid (s.tmpI.toNat + tf) (s.humI.toNat + hf) ∧
        tf * 10 ^ (portsOf s).tmpK.toNat = s.tmpF.toNat ∧ hf * 10 ^ (portsOf s).humK.toNat = s.humF.toNat ∧
        0 ≤ tf ∧ tf < 1 ∧ 0 ≤ hf ∧ hf < 1) ∧
      (s.resValid = false → readingOf s = .failed s.resReason)

/-! ### The protocol state machine -/

/-- `GET_READING` sets `START` in the idle block and is ignored while an attempt runs (decision D23). -/
def Obligations.GetReadingIsIgnoredWhileBusy : Prop :=
  ∀ s : State, (s.busy = false → exec .getReading s = .next { s with start := true }) ∧
    (s.busy = true → exec .getReading s = .next s)

/-- `ST_IDLE`: without a command a stutter; with one the attempt begins (decisions D16, D21, D22, D23). -/
def Obligations.IdleAcceptsACommand : Prop :=
  ∀ s : State, (s.start = false → exec .stIdle s = .next s) ∧
    (s.start = true → exec .stIdle s = .next { s with
      start := false, busy := true, donef := false, resValid := false, resReason := .unknown,
      humI := 0, humF := 0, tmpI := 0, tmpF := 0, frame := [], bitIdx := 0,
      gmode := .outputLow, t0 := nowOf s, stage := .reset, phase := .skip })

/-- `ST_RESET` holds the line low until `RESET_LOW_US` has passed since `T0`; elapsed exactly `RESET_LOW_US` goes on (decision
D10). -/
def Obligations.ResetStageWaitsForItsDuration : Prop :=
  ∀ s : State, s.par.wf = true →
    (s.par.resetLowUs ≤ (nowOf s - s.t0).toNat → exec .stReset s = .next { s with stage := .release }) ∧
      ((nowOf s - s.t0).toNat < s.par.resetLowUs → exec .stReset s = .next s)

/-- `ST_RELEASE` lets the line go and takes the acknowledgement origin in the same step (decision D15). -/
def Obligations.ReleaseStartsTheAcknowledgement : Prop :=
  ∀ s : State, exec .stRelease s =
    .next { s with gmode := .inputPullup, t0 := nowOf s, stage := .synclow, phase := .skip }

/-- R169: the first wait of the acknowledgement polls for high; 100 µs from the release without it is `SyncTimeout1`. -/
def Obligations.SynclowSkipPollsForHigh : Prop :=
  encode .stSynclowSkip = 0x0C#8 ∧ ∀ s : State,
    (line s = .high → exec .stSynclowSkip s = .next { s with phase := .lead }) ∧
      (line s = .low → 100 ≤ (nowOf s - s.t0).toNat → exec .stSynclowSkip s =
        .next { s with sample := 0, resReason := .syncTimeout1, stage := .done, phase := .skip }) ∧
      (line s = .low → (nowOf s - s.t0).toNat < 100 → exec .stSynclowSkip s = .next s)

/-- R170: the second wait polls for low and stamps the pulse start; a sensor that never answers is `SyncTimeout1`. -/
def Obligations.SynclowLeadStampsThePulse : Prop :=
  encode .stSynclowLead = 0x0D#8 ∧ ∀ s : State,
    (line s = .low → exec .stSynclowLead s = .next { s with ts := nowOf s, phase := .trail }) ∧
      (line s = .high → 100 ≤ (nowOf s - s.t0).toNat → exec .stSynclowLead s =
        .next { s with sample := 0, resReason := .syncTimeout1, stage := .done, phase := .skip }) ∧
      (line s = .high → (nowOf s - s.t0).toNat < 100 → exec .stSynclowLead s = .next s)

/-- The third wait polls for high and takes the width: under 75 fails, 75 or more passes and takes the `SYNCHIGH` origin in the
same step (decision D15). -/
def Obligations.SynclowTrailTestsTheWidth : Prop :=
  ∀ s : State,
    (line s = .high → (nowOf s - s.ts).toNat < 75 → exec .stSynclowTrail s =
      .next { s with sample := nowOf s - s.ts, resReason := .syncTimeout1, stage := .done, phase := .skip }) ∧
    (line s = .high → 75 ≤ (nowOf s - s.ts).toNat → exec .stSynclowTrail s =
      .next { s with sample := nowOf s - s.ts, phase := .skip, stage := .synchigh, t0 := nowOf s }) ∧
    (line s = .low → 100 ≤ (nowOf s - s.t0).toNat → exec .stSynclowTrail s =
      .next { s with sample := 0, resReason := .syncTimeout1, stage := .done, phase := .skip }) ∧
    (line s = .low → (nowOf s - s.t0).toNat < 100 → exec .stSynclowTrail s = .next s)

/-- `ST_SYNCHIGH`: one wait for low, with its own origin and timeout (decision D12). -/
def Obligations.SynchighWaitsForLow : Prop :=
  ∀ s : State, s.par.wf = true →
    (line s = .low → exec .stSynchigh s =
      .next { s with stage := .receivebits, phase := .skip, t0 := nowOf s }) ∧
    (line s = .high → s.par.syncHighTimeoutUs ≤ (nowOf s - s.t0).toNat → exec .stSynchigh s =
      .next { s with resReason := .syncTimeout2, stage := .done, phase := .skip }) ∧
    (line s = .high → (nowOf s - s.t0).toNat < s.par.syncHighTimeoutUs → exec .stSynchigh s = .next s)

/-- R174: the first wait of a bit polls for low; 140 µs from the cell's origin without it is `DataTimeout`. -/
def Obligations.RxSkipPollsForLow : Prop :=
  encode .stRxSkip = 0x14#8 ∧ ∀ s : State,
    (line s = .low → exec .stRxSkip s = .next { s with phase := .lead }) ∧
      (line s = .high → 140 ≤ (nowOf s - s.t0).toNat → exec .stRxSkip s =
        .next { s with sample := 0, resReason := .dataTimeout, stage := .done, phase := .skip }) ∧
      (line s = .high → (nowOf s - s.t0).toNat < 140 → exec .stRxSkip s = .next s)

/-- R175: the second wait of a bit polls for high and stamps the pulse start. -/
def Obligations.RxLeadStampsThePulse : Prop :=
  encode .stRxLead = 0x15#8 ∧ ∀ s : State,
    (line s = .high → exec .stRxLead s = .next { s with ts := nowOf s, phase := .trail }) ∧
      (line s = .low → 140 ≤ (nowOf s - s.t0).toNat → exec .stRxLead s =
        .next { s with sample := 0, resReason := .dataTimeout, stage := .done, phase := .skip }) ∧
      (line s = .low → (nowOf s - s.t0).toNat < 140 → exec .stRxLead s = .next s)

/-- The third wait of a bit: while the line is high it waits or times out; a pulse of width 0 is a timeout too; any other width is a bit, stored at
`BITIDX`, and the next cell's origin is taken in the same step (decisions D15, D22). Every byte of the frame store but the one at
`BITIDX` div 8 reads as before, and, where the store is in its canonical form (log 11), so does every bit but the one stored. -/
def Obligations.RxTrailStoresTheBit : Prop :=
  ∀ s : State,
    (line s = .high → 140 ≤ (nowOf s - s.t0).toNat → exec .stRxTrail s =
      .next { s with sample := 0, resReason := .dataTimeout, stage := .done, phase := .skip }) ∧
    (line s = .high → (nowOf s - s.t0).toNat < 140 → exec .stRxTrail s = .next s) ∧
    (line s = .low → nowOf s = s.ts → exec .stRxTrail s =
      .next { s with sample := 0, resReason := .dataTimeout, stage := .done, phase := .skip }) ∧
    (line s = .low → nowOf s ≠ s.ts → s.bitIdx.toNat < 40 → ∃ m : Memory,
      exec .stRxTrail s = .next { s with
        sample := nowOf s - s.ts, phase := .skip, frame := m, bitIdx := s.bitIdx + 1,
        stage := if s.bitIdx.toNat = 39 then .validate else s.stage,
        t0 := if s.bitIdx.toNat = 39 then s.t0 else nowOf s } ∧
      (∀ a, a ≠ byteOf s.bitIdx.toNat → Memory.read m a = Memory.read s.frame a) ∧
      (Memory.wf s.frame = true → ∀ j, j < 40 → frameBit m j =
        if j = s.bitIdx.toNat then decide (60 < (nowOf s - s.ts).toNat) else frameBit s.frame j)) ∧
    (line s = .low → nowOf s ≠ s.ts → 40 ≤ s.bitIdx.toNat → exec .stRxTrail s = .fault .frameAddress)

/-- R86: what the measured width of a cell's high pulse decodes as: 0, no bit, the attempt fails with `DataTimeout`; 1 to 60, bit 0;
61 or more, bit 1. -/
def Obligations.PulseWidthDecodesAsABit : Prop :=
  ∀ s : State, line s = .low → s.bitIdx.toNat < 40 → Memory.wf s.frame = true →
    ∃ t : State, exec .stRxTrail s = .next t ∧ t.sample = nowOf s - s.ts ∧
      (t.sample.toNat = 0 → t.resReason = .dataTimeout ∧ t.stage = .done ∧ t.bitIdx = s.bitIdx ∧
        ∀ j, j < 40 → frameBit t.frame j = frameBit s.frame j) ∧
      (1 ≤ t.sample.toNat → t.sample.toNat ≤ 60 → frameBit t.frame s.bitIdx.toNat = false) ∧
      (61 ≤ t.sample.toNat → frameBit t.frame s.bitIdx.toNat = true)

/-- R178: the checksum decides between a valid result made of the four value bytes and `ChecksumMismatch`. -/
def Obligations.ValidateTestsTheChecksum : Prop :=
  encode .stValidate = 0x18#8 ∧ ∀ s : State,
    let b := Memory.read s.frame
    ((b 4).toNat = ((b 0).toNat + (b 1).toNat + (b 2).toNat + (b 3).toNat) % 256 → exec .stValidate s =
      .next { s with resValid := true, humI := b 0, humF := b 1, tmpI := b 2, tmpF := b 3, stage := .done }) ∧
    ((b 4).toNat ≠ ((b 0).toNat + (b 1).toNat + (b 2).toNat + (b 3).toNat) % 256 → exec .stValidate s =
      .next { s with resReason := .checksumMismatch, stage := .done, phase := .skip })

/-- `ST_DONE` ends the attempt: `BUSY` cleared, `DONEF` set, back to `IDLE`, all in one step (decisions D16, D23, D32). -/
def Obligations.DoneEndsTheAttempt : Prop :=
  ∀ s : State, exec .stDone s = .next { s with busy := false, donef := true, stage := .idle }

/-- R223: `fail(reason)` writes the reason, goes to `DONE` with phase 0, and writes nothing else; wherever a failure can be raised the
pad is already an input, `RES_VALID` is 0 and the value registers are 0. -/
def Obligations.FailWritesTheReasonAndGoesToDone : Prop :=
  ∀ (r : ReasonCode) (s : State),
    (failWith r s).resReason = r ∧ (failWith r s).stage = .done ∧ (failWith r s).phase = .skip ∧
      { failWith r s with resReason := s.resReason, stage := s.stage, phase := s.phase } = s ∧
      (LegalState s → s.stage = .synclow ∨ s.stage = .synchigh ∨ s.stage = .receivebits ∨ s.stage = .validate →
        s.gmode = .inputPullup ∧ (failWith r s).resValid = false ∧ (failWith r s).humI = 0 ∧ (failWith r s).humF = 0 ∧
          (failWith r s).tmpI = 0 ∧ (failWith r s).tmpF = 0)

/-- Which steps raise which reason, and when: the table of spec/60_exceptions.md R216, whose codes are the spec's own decision
D18. -/
def Obligations.EachReasonHasItsOwnSteps : Prop :=
  ∀ (i : Instr) (s t : State), exec i s = .next t → t.resReason ≠ s.resReason →
    (t.resReason = .unknown ∧ ((i = .stIdle ∧ s.start = true) ∨ i = .hwReset)) ∨
      (t.resReason = .syncTimeout1 ∧ isSynclowStep i ∧ t.sample.toNat < 75) ∨
      (t.resReason = .syncTimeout2 ∧ i = .stSynchigh ∧ line s = .high ∧ syncHighTimeout s ≤ elapsed s) ∨
      (t.resReason = .dataTimeout ∧ isRxStep i ∧ t.sample = 0) ∨
      (t.resReason = .checksumMismatch ∧ i = .stValidate ∧ frameValid s.frame = false)

/-- R30: `RES_VALID` is the tag of the `Reading`; it is cleared when an attempt starts and set only by `ST_VALIDATE` on a matching
checksum. -/
def Obligations.OnlyValidateSetsResValid : Prop :=
  (∀ s : State, s.resValid = true ↔ ∃ temperature humidity, readingOf s = .valid temperature humidity) ∧
  (∀ s : State, s.start = true → ∃ t : State, exec .stIdle s = .next t ∧ t.resValid = false) ∧
    ∀ (i : Instr) (s t : State), exec i s = .next t → s.resValid = false → t.resValid = true →
      i = .stValidate ∧ frameValid s.frame = true

/-- The order of the stages (R180, with the stage `IDLE` of decision D16): a DECODER step stays in its stage or goes where
`mayFollow` says. -/
def Obligations.StagesFollowOneAnother : Prop :=
  ∀ (s t : State) (rest : List Move), s.issued = none → s.agenda = .decoder :: rest → step s = .next t →
    t.stage = s.stage ∨ mayFollow s.stage t.stage = true

/-- No move of another agent but `HW_RESET` disturbs a running attempt (R183, decision D23): the sequencer, the data registers,
the frame, the flags, the result and the pad are as they were. -/
def Obligations.NoOtherAgentDisturbsAnAttempt : Prop :=
  ∀ (s t : State) (m : Move) (rest : List Move), s.issued = none → s.agenda = m :: rest → m ≠ .decoder → m ≠ .reset →
    step s = .next t →
    t = { s with
          agenda := rest, cnt := t.cnt, ovf := t.ovf, ovp := t.ovp, ie := t.ie, sens := t.sens, start := t.start } ∧
      (s.busy = true → t.start = s.start)

/-- The frame store: which steps write it and how far (R60). All others leave every byte as it reads. -/
def Obligations.FrameStoreWriters : Prop :=
  ∀ (i : Instr) (s t : State), exec i s = .next t →
    (¬ isRxStep i → i ≠ .stIdle → i ≠ .hwReset → ∀ a, Memory.read t.frame a = Memory.read s.frame a) ∧
      (isRxStep i → ∀ a, a ≠ byteOf s.bitIdx.toNat → Memory.read t.frame a = Memory.read s.frame a)

/-- The agents' registers (the column "agent" of R20's table): who may write `IE`, `SENS`, `START`, `GMODE`, the flags and `BITIDX`.
No step writes the parameters (model's choice: log 1). -/
def Obligations.FlagsAndPadHaveTheirWriters : Prop :=
  ∀ (i : Instr) (s t : State), exec i s = .next t →
    (t.ie ≠ s.ie → (∃ v, i = .setIe v) ∨ i = .hwReset) ∧
      (t.sens ≠ s.sens → ∃ v, i = .sensorDrive v) ∧
      (t.start ≠ s.start → i = .getReading ∨ i = .stIdle ∨ i = .hwReset) ∧
      (t.gmode ≠ s.gmode → i = .setOutputLow ∨ i = .setInputPullup ∨ i = .stIdle ∨ i = .stRelease ∨ i = .hwReset) ∧
      (t.busy ≠ s.busy → i = .stIdle ∨ i = .stDone ∨ i = .hwReset) ∧
      (t.donef ≠ s.donef → i = .stIdle ∨ i = .stDone ∨ i = .hwReset) ∧
      (t.bitIdx ≠ s.bitIdx → i = .stIdle ∨ isRxStep i ∨ i = .hwReset) ∧
      t.par = s.par

/-! ### The frame store -/

/-- R61: bit number `i` is stored at byte `i` div 8, bit 7 − (`i` mod 8); every other bit of the frame stays. -/
def Obligations.BitsArePackedMsbFirst : Prop :=
  ∀ (m : Memory) (i : Nat) (v : Bool), Memory.wf m = true → i < 40 →
    ∃ m' : Memory, storeBit m i v = some m' ∧
      (Memory.read m' (i / 8)).getLsbD (7 - i % 8) = v ∧
      ∀ a k, k < 8 → (a ≠ i / 8 ∨ k ≠ 7 - i % 8) → (Memory.read m' a).getLsbD k = (Memory.read m a).getLsbD k

/-- R81: forty bits received in order, onto whatever the store held, are the 40-bit frame with the first received as bit 39. -/
def Obligations.FortyBitsAreTheFrame : Prop :=
  ∀ (w : BitVec 40) (m : Memory), Memory.wf m = true →
    ∃ m' : Memory, receiveBits 0 ((List.range 40).map fun i => w.getMsbD i) m = some m' ∧ frameWord m' = w

/-- The frame store keeps its canonical form under the only operation that writes it, so that equal stores are equal data
(model's choice, log 11). -/
def Obligations.BitStoreKeepsCanonicalForm : Prop :=
  ∀ (m m' : Memory) (i : Nat) (v : Bool), Memory.wf m = true → storeBit m i v = some m' →
    Memory.wf m' = true ∧ ∀ m'' : Memory, Memory.wf m'' = true → (∀ a, Memory.read m'' a = Memory.read m' a) → m'' = m'

/-! ### Reset and the invariant -/

/-- `HW_RESET` from any state: every register at its reset value but `SENS`, which is kept, and `T0`, `TS`, `SAMPLE`, of which nothing is
said (decision D27). The model's own inputs are kept (log 14). -/
def Obligations.HardwareResetClearsTheBlock : Prop :=
  ∀ s : State, ∃ a b c : Time, exec .hwReset s = .next { State.resetWith s.par with
    t0 := a, ts := b, sample := c, sens := s.sens, args := s.args, unspecIx := s.unspecIx + 3, agenda := s.agenda,
    turn := s.turn, issued := s.issued }

/-- What the ports show after reset, whatever the parameters: `Failed{Unknown}`, `done` and `busy` 0, the pad not driven
(R246, decision D27). -/
def Obligations.ResetShowsNoResult : Prop :=
  ∀ p : Config.Params,
    let s := State.resetWith p
    readingOf s = .failed .unknown ∧ (portsOf s).busy = false ∧ (portsOf s).done = false ∧ (portsOf s).padOe = false ∧
      (portsOf s).irq = false ∧ s.stage = .idle ∧ s.phase = .skip ∧ s.ie = false ∧ s.start = false ∧ nowOf s = 0 ∧
      ∀ a, Memory.read s.frame a = 0

/-- The invariant holds after reset, under all parameters in their ranges. -/
def Obligations.InvariantHoldsAtReset : Prop :=
  (∀ p : Config.Params, p.wf = true → LegalState (State.resetWith p)) ∧ LegalState State.reset

/-- The invariant, R44 (a) to (g) (the spec's own derivation), is kept by every step of every agent. -/
def Obligations.EveryStepKeepsTheInvariant : Prop :=
  ∀ s t : State, LegalState s → step s = .next t → LegalState t

/-- In a legal state no step of an agent stops the machine: every move has its effect. -/
def Obligations.NoLegalStateStops : Prop :=
  ∀ s : State, LegalState s → ∃ t : State, step s = .next t

/-- A completed attempt never reads as `Unknown` (R44 (g), the spec's own derivation; U1). -/
def Obligations.CompletedAttemptsHaveAResult : Prop :=
  ∀ s t : State, LegalState s → step s = .next t → (portsOf t).done = true →
    (portsOf t).busy = false ∧ readingOf t ≠ .failed .unknown ∧
      ((portsOf t).resValid = false → (portsOf t).resReason.toNat ∈ [1, 2, 3, 4])

/-- The unspecified reset values of `T0`, `TS`, `SAMPLE` are never read (R44 (h), the spec's own derivation): two states that differ only in
them step alike. -/
def Obligations.UnspecifiedRegistersAreNeverRead : Prop :=
  ∀ s₁ s₂ t₁ : State, SameButUnread s₁ s₂ → step s₁ = .next t₁ → ∃ t₂ : State, step s₂ = .next t₂ ∧ SameButUnread t₁ t₂

/-! ### Progress -/

/-- Every DECODER step is a stutter or moves the attempt on, an attempt can move on at most 128 times before the step that ends it, and
no stage outlasts its budget: once the elapsed time has reached the stage's limit, the step of a running attempt is no stutter
(R184, R270, R272, the spec's own derivation). -/
def Obligations.AttemptsAdvanceWithinTheirBudgets : Prop :=
  ∀ (s : State) (rest : List Move), LegalState s → s.agenda = .decoder :: rest →
    ∃ t : State, step s = .next t ∧ rank t ≤ 128 ∧
      (t = { s with agenda := rest } ∨ rank s < rank t ∨ (s.stage = .done ∧ t.stage = .idle)) ∧
      (s.stage ≠ .idle → stageLimit s ≤ elapsed s → rank s < rank t ∨ (s.stage = .done ∧ t.stage = .idle))

/-- One tick of the reference schedule (R272, decision D3) in a legal state, with the overflow service enabled or no overflow pending
(so that none is lost): it completes, its DECODER part ends where the next DECODER step is a stutter, the state stays legal, and the
clock is one tick on. The schedule sets that part no bound; the bound `settleFuel` of 130 steps is the model's (log 21), and the
clause on the stutter says that it cuts nothing off. -/
def Obligations.ReferenceTickAdvancesTheClock : Prop :=
  ∀ (drive command : Bool) (s : State), LegalState s → (s.ie = true ∨ s.ovp = false) →
    ∃ s₁ s₂ t : State, environment drive command s = .next s₁ ∧ settle settleFuel s₁ = .next s₂ ∧
      moveNow .decoder s₂ = .next s₂ ∧ referenceTick drive command s = .next t ∧ LegalState t ∧
      nowOf t = nowOf s + BitVec.ofNat 32 s.par.usPerTick ∧ t.sens = drive ∧ t.ie = s.ie

/-- R184 (the spec's own derivation): every attempt ends, whatever the sensor does. Under the reference schedule (decision D3), from the
tick of the accepting step to the tick of `ST_DONE` less than `attemptBudget` microseconds pass; there `U` < 2^32, since a larger tick
does not show in a 32-bit clock, and the DECODER part of a tick has the model's bound of 130 steps (log 21). Under any other schedule it
ends too, provided no overflow is lost, no `HW_RESET` comes, the schedule is fair, and the polls come close enough to one another for
a 32-bit elapsed time to show that a wait has run out (this premise and `U` < 2^32 are the model's: log 22). -/
def Obligations.EveryAttemptEnds : Prop :=
  (∀ (drive command : Nat → Bool) (k : Nat) (s : State), LegalState s → s.ie = true → s.par.usPerTick < 2 ^ 32 →
    s.stage = .idle → (s.start = true ∨ command k = true) →
    ∃ (n : Nat) (s₁ t : State), referenceTick (drive k) (command k) s = .next s₁ ∧ s₁.busy = true ∧ s₁.donef = false ∧
      referenceRun drive command k (n + 1) s = .next t ∧ t.busy = false ∧ t.donef = true ∧
      n * s.par.usPerTick < attemptBudget s.par) ∧
  (∀ (schedule : Nat → Move) (lag : Nat) (s : State), LegalState s → s.busy = true → FairSchedule schedule →
    LagAtMost lag schedule → (∀ n, schedule n ≠ .reset) → NoOverflowLostAlong schedule s →
    s.par.resetLowUs + lag * s.par.usPerTick ≤ 2 ^ 32 →
    ∃ (n : Nat) (t : State), runSchedule schedule 0 n s = .next t ∧ t.stage = .idle ∧ t.busy = false ∧ t.donef = true ∧
      readingOf t ≠ .failed .unknown)
end

