-- ==== Sys2Proof/Laws/Memory.lean ====
section
/-! SUPPORT. The laws of the frame store: read after write, the canonical form, the bit store. -/

namespace Sys2Proof.Machine

@[simp] theorem Memory.read_nil (x : Nat) : Memory.read [] x = 0 := rfl

theorem Memory.read_cell (a : Nat) (b : Byte) (m : Memory) (x : Nat) :
    Memory.read ((a, b) :: m) x = if x = a then b else Memory.read m x := rfl

/-- Every address listed is at least `lo`: a lower one reads as unlisted. -/
theorem Memory.read_below {m : Memory} {lo x : Nat} (h : Memory.wfFrom lo m = true) (hx : x < lo) :
    Memory.read m x = Memory.unlisted := by
  induction m generalizing lo with
  | nil => rfl
  | cons c m ih =>
    obtain ⟨a, b⟩ := c
    simp only [Memory.wfFrom, Bool.and_eq_true, decide_eq_true_eq] at h
    rw [Memory.read_cell, if_neg (by omega)]
    exact ih h.2 (by omega)

theorem Memory.wfFrom_mono {m : Memory} {lo lo' : Nat} (h : Memory.wfFrom lo m = true) (hle : lo' ≤ lo) :
    Memory.wfFrom lo' m = true := by
  cases m with
  | nil => rfl
  | cons c m =>
    simp only [Memory.wfFrom, Bool.and_eq_true, decide_eq_true_eq] at h ⊢
    exact ⟨⟨⟨by omega, h.1.1.2⟩, h.1.2⟩, h.2⟩

/-- What a memory reads once a cell has been put in front. -/
theorem Memory.read_cons (a : Nat) (v : Byte) (m : Memory) (x : Nat)
    (h : v = Memory.unlisted → Memory.read m a = Memory.unlisted) :
    Memory.read (Memory.cons a v m) x = if x = a then v else Memory.read m x := by
  unfold Memory.cons
  by_cases hv : v = Memory.unlisted
  · by_cases hx : x = a
    · simp [hv, hx, h hv]
    · simp [hv, hx]
  · simp [hv, Memory.read_cell]

theorem Memory.wfFrom_cons {a lo : Nat} {v : Byte} {m : Memory} (hlo : lo ≤ a) (ha : a < Memory.size)
    (h : Memory.wfFrom (a + 1) m = true) : Memory.wfFrom lo (Memory.cons a v m) = true := by
  unfold Memory.cons
  by_cases hv : v = Memory.unlisted
  · simpa [hv] using Memory.wfFrom_mono h (by omega)
  · simp [hv, Memory.wfFrom, hlo, ha, h]

/-- Read after write, in a memory of canonical form: the place written holds the value, every other place is left alone. -/
theorem Memory.read_write_wf {m : Memory} {lo : Nat} (h : Memory.wfFrom lo m = true) (x : Nat) (v : Byte) (y : Nat) :
    Memory.read (Memory.write m x v) y = if y = x then v else Memory.read m y := by
  induction m generalizing lo with
  | nil => exact Memory.read_cons x v [] y fun _ => rfl
  | cons c m ih =>
    obtain ⟨a, b⟩ := c
    simp only [Memory.wfFrom, Bool.and_eq_true, decide_eq_true_eq] at h
    unfold Memory.write
    by_cases h1 : x < a
    · rw [if_pos h1]
      refine Memory.read_cons x v _ y fun _ => ?_
      rw [Memory.read_cell, if_neg (by omega)]
      exact Memory.read_below h.2 (by omega)
    · by_cases h2 : x = a
      · subst h2
        rw [if_neg h1, if_pos rfl, Memory.read_cons x v m y fun _ => Memory.read_below h.2 (by omega)]
        by_cases hy : y = x <;> simp [hy, Memory.read_cell]
      · rw [if_neg h1, if_neg h2, Memory.read_cell, Memory.read_cell, ih h.2]
        by_cases hy : y = a
        · subst hy; simp [Ne.symm h2]
        · simp [hy]

/-- A write leaves every other place alone, in a memory of any form. -/
theorem Memory.read_write_other (m : Memory) {x y : Nat} (v : Byte) (hy : y ≠ x) :
    Memory.read (Memory.write m x v) y = Memory.read m y := by
  have hcons : ∀ m' : Memory, Memory.read (Memory.cons x v m') y = Memory.read m' y := by
    intro m'
    unfold Memory.cons
    split
    · rfl
    · rw [Memory.read_cell, if_neg hy]
  induction m with
  | nil => exact hcons []
  | cons c m ih =>
    obtain ⟨a, b⟩ := c
    unfold Memory.write
    split
    · exact hcons _
    · split
      · rename_i hxa
        rw [hcons, Memory.read_cell, if_neg (by omega)]
      · rw [Memory.read_cell, Memory.read_cell, ih]

/-- Read after write at the same place. -/
theorem Memory.read_write_same {m : Memory} (h : Memory.wf m = true) (x : Nat) (v : Byte) :
    Memory.read (Memory.write m x v) x = v := by
  rw [Memory.read_write_wf h, if_pos rfl]

/-- A write at an address of the store keeps the canonical form. -/
theorem Memory.wfFrom_write {m : Memory} {lo x : Nat} {v : Byte} (h : Memory.wfFrom lo m = true) (hlo : lo ≤ x)
    (hx : x < Memory.size) : Memory.wfFrom lo (Memory.write m x v) = true := by
  induction m generalizing lo with
  | nil => exact Memory.wfFrom_cons hlo hx rfl
  | cons c m ih =>
    obtain ⟨a, b⟩ := c
    have h' := h
    simp only [Memory.wfFrom, Bool.and_eq_true, decide_eq_true_eq] at h
    unfold Memory.write
    by_cases h1 : x < a
    · rw [if_pos h1]
      refine Memory.wfFrom_cons hlo hx ?_
      simp only [Memory.wfFrom, Bool.and_eq_true, decide_eq_true_eq]
      exact ⟨⟨⟨by omega, h.1.1.2⟩, h.1.2⟩, h.2⟩
    · by_cases h2 : x = a
      · subst h2
        rw [if_neg h1, if_pos rfl]
        exact Memory.wfFrom_cons hlo hx h.2
      · rw [if_neg h1, if_neg h2]
        simp only [Memory.wfFrom, Bool.and_eq_true, decide_eq_true_eq]
        exact ⟨⟨⟨h.1.1.1, h.1.1.2⟩, h.1.2⟩, ih h.2 (by omega)⟩

/-- Every memory operation keeps the canonical form. -/
theorem Memory.wf_write {m : Memory} {x : Nat} (v : Byte) (h : Memory.wf m = true) (hx : x < Memory.size) :
    Memory.wf (Memory.write m x v) = true :=
  Memory.wfFrom_write h (Nat.zero_le x) hx

theorem Memory.wf_nil : Memory.wf [] = true := rfl

/-- Two memories of canonical form that read alike are equal. -/
theorem Memory.ext_of_wfFrom {m m' : Memory} {lo : Nat} (h : Memory.wfFrom lo m = true) (h' : Memory.wfFrom lo m' = true)
    (hr : ∀ a, Memory.read m a = Memory.read m' a) : m = m' := by
  induction m generalizing lo m' with
  | nil =>
    cases m' with
    | nil => rfl
    | cons c' m' =>
      simp only [Memory.wfFrom, Bool.and_eq_true, decide_eq_true_eq] at h'
      have := hr c'.1
      rw [Memory.read_cell, if_pos rfl] at this
      exact absurd this.symm h'.1.2
  | cons c m ih =>
    simp only [Memory.wfFrom, Bool.and_eq_true, decide_eq_true_eq] at h
    cases m' with
    | nil =>
      have := hr c.1
      rw [Memory.read_cell, if_pos rfl] at this
      exact absurd this h.1.2
    | cons c' m' =>
      obtain ⟨a, b⟩ := c
      obtain ⟨a', b'⟩ := c'
      simp only [Memory.wfFrom, Bool.and_eq_true, decide_eq_true_eq] at h'
      have hab : a = a' := by
        rcases Nat.lt_trichotomy a a' with hlt | heq | hgt
        · have := hr a
          rw [Memory.read_cell, if_pos rfl, Memory.read_cell, if_neg (by omega),
            Memory.read_below h'.2 (by omega)] at this
          exact absurd this h.1.2
        · exact heq
        · have := hr a'
          rw [Memory.read_cell, if_neg (by omega), Memory.read_below h.2 (by omega), Memory.read_cell,
            if_pos rfl] at this
          exact absurd this.symm h'.1.2
      subst hab
      have hb : b = b' := by simpa [Memory.read_cell] using hr a
      subst hb
      rw [ih h.2 h'.2 fun x => ?_]
      by_cases hx : x = a
      · subst hx
        rw [Memory.read_below h.2 (by omega), Memory.read_below h'.2 (by omega)]
      · simpa [Memory.read_cell, hx] using hr x

/-! ### The bit store -/

/-- One bit of a byte is replaced, the other seven are kept. -/
theorem getLsbD_setBit (b : Byte) (k j : Nat) (v : Bool) (hk : k < 8) (hj : j < 8) :
    (setBit b k v).getLsbD j = if j = k then v else b.getLsbD j := by
  unfold setBit
  by_cases h : j = k
  · subst h; cases v <;> simp [hj]
  · have : ¬ (k ≤ j ∧ j - k = 0) := by omega
    cases v <;> simp [h, hj] <;> omega

/-- What the bit store can do: store one bit in an existing byte, or find no such byte. -/
theorem storeBit_cases (m : Memory) (i : Nat) (v : Bool) :
    (i < 40 ∧ storeBit m i v =
        some (Memory.write m (byteOf i) (setBit (Memory.read m (byteOf i)) (bitOfByte i) v))) ∨
      (40 ≤ i ∧ storeBit m i v = none) := by
  unfold storeBit
  by_cases h : byteOf i < Memory.size
  · left
    refine ⟨?_, by rw [if_pos h]⟩
    simp [byteOf, Memory.size, Config.nBytes] at h; omega
  · right
    refine ⟨?_, by rw [if_neg h]⟩
    simp [byteOf, Memory.size, Config.nBytes] at h; omega

theorem storeBit_lt {m m' : Memory} {i : Nat} {v : Bool} (h : storeBit m i v = some m') : i < 40 := by
  rcases storeBit_cases m i v with ⟨hi, -⟩ | ⟨-, hn⟩
  · exact hi
  · rw [hn] at h; cases h

/-- The bytes beside the one that holds the bit read as before. -/
theorem storeBit_other {m m' : Memory} {i : Nat} {v : Bool} (h : storeBit m i v = some m') {a : Nat} (ha : a ≠ byteOf i) :
    Memory.read m' a = Memory.read m a := by
  rcases storeBit_cases m i v with ⟨-, hs⟩ | ⟨-, hn⟩
  · rw [hs] at h; cases h; exact Memory.read_write_other _ _ ha
  · rw [hn] at h; cases h

end Sys2Proof.Machine
end

