-- ==== Sys2Proof/Laws/State.lean ====
section
/-! SUPPORT. What each named update of State does to each field, one lemma per field, so that no later proof unfolds a record
update. -/

namespace Sys2Proof.Machine

/-! ### `failWith` -/

@[simp] theorem failWith_stage (r : ReasonCode) (s : State) : (failWith r s).stage = .done := rfl
@[simp] theorem failWith_phase (r : ReasonCode) (s : State) : (failWith r s).phase = .skip := rfl
@[simp] theorem failWith_t0 (r : ReasonCode) (s : State) : (failWith r s).t0 = s.t0 := rfl
@[simp] theorem failWith_ts (r : ReasonCode) (s : State) : (failWith r s).ts = s.ts := rfl
@[simp] theorem failWith_sample (r : ReasonCode) (s : State) : (failWith r s).sample = s.sample := rfl
@[simp] theorem failWith_bitIdx (r : ReasonCode) (s : State) : (failWith r s).bitIdx = s.bitIdx := rfl
@[simp] theorem failWith_frame (r : ReasonCode) (s : State) : (failWith r s).frame = s.frame := rfl
@[simp] theorem failWith_busy (r : ReasonCode) (s : State) : (failWith r s).busy = s.busy := rfl
@[simp] theorem failWith_donef (r : ReasonCode) (s : State) : (failWith r s).donef = s.donef := rfl
@[simp] theorem failWith_resValid (r : ReasonCode) (s : State) : (failWith r s).resValid = s.resValid := rfl
@[simp] theorem failWith_resReason (r : ReasonCode) (s : State) : (failWith r s).resReason = r := rfl
@[simp] theorem failWith_humI (r : ReasonCode) (s : State) : (failWith r s).humI = s.humI := rfl
@[simp] theorem failWith_humF (r : ReasonCode) (s : State) : (failWith r s).humF = s.humF := rfl
@[simp] theorem failWith_tmpI (r : ReasonCode) (s : State) : (failWith r s).tmpI = s.tmpI := rfl
@[simp] theorem failWith_tmpF (r : ReasonCode) (s : State) : (failWith r s).tmpF = s.tmpF := rfl
@[simp] theorem failWith_cnt (r : ReasonCode) (s : State) : (failWith r s).cnt = s.cnt := rfl
@[simp] theorem failWith_ovf (r : ReasonCode) (s : State) : (failWith r s).ovf = s.ovf := rfl
@[simp] theorem failWith_ovp (r : ReasonCode) (s : State) : (failWith r s).ovp = s.ovp := rfl
@[simp] theorem failWith_ie (r : ReasonCode) (s : State) : (failWith r s).ie = s.ie := rfl
@[simp] theorem failWith_gmode (r : ReasonCode) (s : State) : (failWith r s).gmode = s.gmode := rfl
@[simp] theorem failWith_sens (r : ReasonCode) (s : State) : (failWith r s).sens = s.sens := rfl
@[simp] theorem failWith_start (r : ReasonCode) (s : State) : (failWith r s).start = s.start := rfl
@[simp] theorem failWith_par (r : ReasonCode) (s : State) : (failWith r s).par = s.par := rfl
@[simp] theorem failWith_args (r : ReasonCode) (s : State) : (failWith r s).args = s.args := rfl
@[simp] theorem failWith_call (r : ReasonCode) (s : State) : (failWith r s).call = s.call := rfl
@[simp] theorem failWith_ret (r : ReasonCode) (s : State) : (failWith r s).ret = s.ret := rfl
@[simp] theorem failWith_unspecIx (r : ReasonCode) (s : State) : (failWith r s).unspecIx = s.unspecIx := rfl
@[simp] theorem failWith_agenda (r : ReasonCode) (s : State) : (failWith r s).agenda = s.agenda := rfl
@[simp] theorem failWith_turn (r : ReasonCode) (s : State) : (failWith r s).turn = s.turn := rfl
@[simp] theorem failWith_issued (r : ReasonCode) (s : State) : (failWith r s).issued = s.issued := rfl

/-! ### `endAttempt` -/

@[simp] theorem endAttempt_stage (s : State) : (endAttempt s).stage = .idle := rfl
@[simp] theorem endAttempt_phase (s : State) : (endAttempt s).phase = s.phase := rfl
@[simp] theorem endAttempt_t0 (s : State) : (endAttempt s).t0 = s.t0 := rfl
@[simp] theorem endAttempt_ts (s : State) : (endAttempt s).ts = s.ts := rfl
@[simp] theorem endAttempt_sample (s : State) : (endAttempt s).sample = s.sample := rfl
@[simp] theorem endAttempt_bitIdx (s : State) : (endAttempt s).bitIdx = s.bitIdx := rfl
@[simp] theorem endAttempt_frame (s : State) : (endAttempt s).frame = s.frame := rfl
@[simp] theorem endAttempt_busy (s : State) : (endAttempt s).busy = false := rfl
@[simp] theorem endAttempt_donef (s : State) : (endAttempt s).donef = true := rfl
@[simp] theorem endAttempt_resValid (s : State) : (endAttempt s).resValid = s.resValid := rfl
@[simp] theorem endAttempt_resReason (s : State) : (endAttempt s).resReason = s.resReason := rfl
@[simp] theorem endAttempt_humI (s : State) : (endAttempt s).humI = s.humI := rfl
@[simp] theorem endAttempt_humF (s : State) : (endAttempt s).humF = s.humF := rfl
@[simp] theorem endAttempt_tmpI (s : State) : (endAttempt s).tmpI = s.tmpI := rfl
@[simp] theorem endAttempt_tmpF (s : State) : (endAttempt s).tmpF = s.tmpF := rfl
@[simp] theorem endAttempt_cnt (s : State) : (endAttempt s).cnt = s.cnt := rfl
@[simp] theorem endAttempt_ovf (s : State) : (endAttempt s).ovf = s.ovf := rfl
@[simp] theorem endAttempt_ovp (s : State) : (endAttempt s).ovp = s.ovp := rfl
@[simp] theorem endAttempt_ie (s : State) : (endAttempt s).ie = s.ie := rfl
@[simp] theorem endAttempt_gmode (s : State) : (endAttempt s).gmode = s.gmode := rfl
@[simp] theorem endAttempt_sens (s : State) : (endAttempt s).sens = s.sens := rfl
@[simp] theorem endAttempt_start (s : State) : (endAttempt s).start = s.start := rfl
@[simp] theorem endAttempt_par (s : State) : (endAttempt s).par = s.par := rfl
@[simp] theorem endAttempt_args (s : State) : (endAttempt s).args = s.args := rfl
@[simp] theorem endAttempt_call (s : State) : (endAttempt s).call = s.call := rfl
@[simp] theorem endAttempt_ret (s : State) : (endAttempt s).ret = s.ret := rfl
@[simp] theorem endAttempt_unspecIx (s : State) : (endAttempt s).unspecIx = s.unspecIx := rfl
@[simp] theorem endAttempt_agenda (s : State) : (endAttempt s).agenda = s.agenda := rfl
@[simp] theorem endAttempt_turn (s : State) : (endAttempt s).turn = s.turn := rfl
@[simp] theorem endAttempt_issued (s : State) : (endAttempt s).issued = s.issued := rfl

/-! ### `answer` -/

@[simp] theorem answer_stage (r : PrimResult) (s : State) : (answer r s).stage = s.stage := rfl
@[simp] theorem answer_phase (r : PrimResult) (s : State) : (answer r s).phase = s.phase := rfl
@[simp] theorem answer_t0 (r : PrimResult) (s : State) : (answer r s).t0 = s.t0 := rfl
@[simp] theorem answer_ts (r : PrimResult) (s : State) : (answer r s).ts = s.ts := rfl
@[simp] theorem answer_sample (r : PrimResult) (s : State) : (answer r s).sample = s.sample := rfl
@[simp] theorem answer_bitIdx (r : PrimResult) (s : State) : (answer r s).bitIdx = s.bitIdx := rfl
@[simp] theorem answer_frame (r : PrimResult) (s : State) : (answer r s).frame = s.frame := rfl
@[simp] theorem answer_busy (r : PrimResult) (s : State) : (answer r s).busy = s.busy := rfl
@[simp] theorem answer_donef (r : PrimResult) (s : State) : (answer r s).donef = s.donef := rfl
@[simp] theorem answer_resValid (r : PrimResult) (s : State) : (answer r s).resValid = s.resValid := rfl
@[simp] theorem answer_resReason (r : PrimResult) (s : State) : (answer r s).resReason = s.resReason := rfl
@[simp] theorem answer_humI (r : PrimResult) (s : State) : (answer r s).humI = s.humI := rfl
@[simp] theorem answer_humF (r : PrimResult) (s : State) : (answer r s).humF = s.humF := rfl
@[simp] theorem answer_tmpI (r : PrimResult) (s : State) : (answer r s).tmpI = s.tmpI := rfl
@[simp] theorem answer_tmpF (r : PrimResult) (s : State) : (answer r s).tmpF = s.tmpF := rfl
@[simp] theorem answer_cnt (r : PrimResult) (s : State) : (answer r s).cnt = s.cnt := rfl
@[simp] theorem answer_ovf (r : PrimResult) (s : State) : (answer r s).ovf = s.ovf := rfl
@[simp] theorem answer_ovp (r : PrimResult) (s : State) : (answer r s).ovp = s.ovp := rfl
@[simp] theorem answer_ie (r : PrimResult) (s : State) : (answer r s).ie = s.ie := rfl
@[simp] theorem answer_gmode (r : PrimResult) (s : State) : (answer r s).gmode = s.gmode := rfl
@[simp] theorem answer_sens (r : PrimResult) (s : State) : (answer r s).sens = s.sens := rfl
@[simp] theorem answer_start (r : PrimResult) (s : State) : (answer r s).start = s.start := rfl
@[simp] theorem answer_par (r : PrimResult) (s : State) : (answer r s).par = s.par := rfl
@[simp] theorem answer_args (r : PrimResult) (s : State) : (answer r s).args = s.args := rfl
@[simp] theorem answer_call (r : PrimResult) (s : State) : (answer r s).call = s.call := rfl
@[simp] theorem answer_ret (r : PrimResult) (s : State) : (answer r s).ret = r := rfl
@[simp] theorem answer_unspecIx (r : PrimResult) (s : State) : (answer r s).unspecIx = s.unspecIx := rfl
@[simp] theorem answer_agenda (r : PrimResult) (s : State) : (answer r s).agenda = s.agenda := rfl
@[simp] theorem answer_turn (r : PrimResult) (s : State) : (answer r s).turn = s.turn := rfl
@[simp] theorem answer_issued (r : PrimResult) (s : State) : (answer r s).issued = s.issued := rfl

/-! ### `driveLow` -/

@[simp] theorem driveLow_stage (s : State) : (driveLow s).stage = s.stage := rfl
@[simp] theorem driveLow_phase (s : State) : (driveLow s).phase = s.phase := rfl
@[simp] theorem driveLow_t0 (s : State) : (driveLow s).t0 = s.t0 := rfl
@[simp] theorem driveLow_ts (s : State) : (driveLow s).ts = s.ts := rfl
@[simp] theorem driveLow_sample (s : State) : (driveLow s).sample = s.sample := rfl
@[simp] theorem driveLow_bitIdx (s : State) : (driveLow s).bitIdx = s.bitIdx := rfl
@[simp] theorem driveLow_frame (s : State) : (driveLow s).frame = s.frame := rfl
@[simp] theorem driveLow_busy (s : State) : (driveLow s).busy = s.busy := rfl
@[simp] theorem driveLow_donef (s : State) : (driveLow s).donef = s.donef := rfl
@[simp] theorem driveLow_resValid (s : State) : (driveLow s).resValid = s.resValid := rfl
@[simp] theorem driveLow_resReason (s : State) : (driveLow s).resReason = s.resReason := rfl
@[simp] theorem driveLow_humI (s : State) : (driveLow s).humI = s.humI := rfl
@[simp] theorem driveLow_humF (s : State) : (driveLow s).humF = s.humF := rfl
@[simp] theorem driveLow_tmpI (s : State) : (driveLow s).tmpI = s.tmpI := rfl
@[simp] theorem driveLow_tmpF (s : State) : (driveLow s).tmpF = s.tmpF := rfl
@[simp] theorem driveLow_cnt (s : State) : (driveLow s).cnt = s.cnt := rfl
@[simp] theorem driveLow_ovf (s : State) : (driveLow s).ovf = s.ovf := rfl
@[simp] theorem driveLow_ovp (s : State) : (driveLow s).ovp = s.ovp := rfl
@[simp] theorem driveLow_ie (s : State) : (driveLow s).ie = s.ie := rfl
@[simp] theorem driveLow_gmode (s : State) : (driveLow s).gmode = .outputLow := rfl
@[simp] theorem driveLow_sens (s : State) : (driveLow s).sens = s.sens := rfl
@[simp] theorem driveLow_start (s : State) : (driveLow s).start = s.start := rfl
@[simp] theorem driveLow_par (s : State) : (driveLow s).par = s.par := rfl
@[simp] theorem driveLow_args (s : State) : (driveLow s).args = s.args := rfl
@[simp] theorem driveLow_call (s : State) : (driveLow s).call = s.call := rfl
@[simp] theorem driveLow_ret (s : State) : (driveLow s).ret = s.ret := rfl
@[simp] theorem driveLow_unspecIx (s : State) : (driveLow s).unspecIx = s.unspecIx := rfl
@[simp] theorem driveLow_agenda (s : State) : (driveLow s).agenda = s.agenda := rfl
@[simp] theorem driveLow_turn (s : State) : (driveLow s).turn = s.turn := rfl
@[simp] theorem driveLow_issued (s : State) : (driveLow s).issued = s.issued := rfl

/-! ### `releaseLine` -/

@[simp] theorem releaseLine_stage (s : State) : (releaseLine s).stage = s.stage := rfl
@[simp] theorem releaseLine_phase (s : State) : (releaseLine s).phase = s.phase := rfl
@[simp] theorem releaseLine_t0 (s : State) : (releaseLine s).t0 = s.t0 := rfl
@[simp] theorem releaseLine_ts (s : State) : (releaseLine s).ts = s.ts := rfl
@[simp] theorem releaseLine_sample (s : State) : (releaseLine s).sample = s.sample := rfl
@[simp] theorem releaseLine_bitIdx (s : State) : (releaseLine s).bitIdx = s.bitIdx := rfl
@[simp] theorem releaseLine_frame (s : State) : (releaseLine s).frame = s.frame := rfl
@[simp] theorem releaseLine_busy (s : State) : (releaseLine s).busy = s.busy := rfl
@[simp] theorem releaseLine_donef (s : State) : (releaseLine s).donef = s.donef := rfl
@[simp] theorem releaseLine_resValid (s : State) : (releaseLine s).resValid = s.resValid := rfl
@[simp] theorem releaseLine_resReason (s : State) : (releaseLine s).resReason = s.resReason := rfl
@[simp] theorem releaseLine_humI (s : State) : (releaseLine s).humI = s.humI := rfl
@[simp] theorem releaseLine_humF (s : State) : (releaseLine s).humF = s.humF := rfl
@[simp] theorem releaseLine_tmpI (s : State) : (releaseLine s).tmpI = s.tmpI := rfl
@[simp] theorem releaseLine_tmpF (s : State) : (releaseLine s).tmpF = s.tmpF := rfl
@[simp] theorem releaseLine_cnt (s : State) : (releaseLine s).cnt = s.cnt := rfl
@[simp] theorem releaseLine_ovf (s : State) : (releaseLine s).ovf = s.ovf := rfl
@[simp] theorem releaseLine_ovp (s : State) : (releaseLine s).ovp = s.ovp := rfl
@[simp] theorem releaseLine_ie (s : State) : (releaseLine s).ie = s.ie := rfl
@[simp] theorem releaseLine_gmode (s : State) : (releaseLine s).gmode = .inputPullup := rfl
@[simp] theorem releaseLine_sens (s : State) : (releaseLine s).sens = s.sens := rfl
@[simp] theorem releaseLine_start (s : State) : (releaseLine s).start = s.start := rfl
@[simp] theorem releaseLine_par (s : State) : (releaseLine s).par = s.par := rfl
@[simp] theorem releaseLine_args (s : State) : (releaseLine s).args = s.args := rfl
@[simp] theorem releaseLine_call (s : State) : (releaseLine s).call = s.call := rfl
@[simp] theorem releaseLine_ret (s : State) : (releaseLine s).ret = s.ret := rfl
@[simp] theorem releaseLine_unspecIx (s : State) : (releaseLine s).unspecIx = s.unspecIx := rfl
@[simp] theorem releaseLine_agenda (s : State) : (releaseLine s).agenda = s.agenda := rfl
@[simp] theorem releaseLine_turn (s : State) : (releaseLine s).turn = s.turn := rfl
@[simp] theorem releaseLine_issued (s : State) : (releaseLine s).issued = s.issued := rfl

/-! ### `clearResult` -/

@[simp] theorem clearResult_stage (s : State) : (clearResult s).stage = s.stage := rfl
@[simp] theorem clearResult_phase (s : State) : (clearResult s).phase = s.phase := rfl
@[simp] theorem clearResult_t0 (s : State) : (clearResult s).t0 = s.t0 := rfl
@[simp] theorem clearResult_ts (s : State) : (clearResult s).ts = s.ts := rfl
@[simp] theorem clearResult_sample (s : State) : (clearResult s).sample = s.sample := rfl
@[simp] theorem clearResult_bitIdx (s : State) : (clearResult s).bitIdx = 0 := rfl
@[simp] theorem clearResult_frame (s : State) : (clearResult s).frame = [] := rfl
@[simp] theorem clearResult_busy (s : State) : (clearResult s).busy = s.busy := rfl
@[simp] theorem clearResult_donef (s : State) : (clearResult s).donef = s.donef := rfl
@[simp] theorem clearResult_resValid (s : State) : (clearResult s).resValid = false := rfl
@[simp] theorem clearResult_resReason (s : State) : (clearResult s).resReason = .unknown := rfl
@[simp] theorem clearResult_humI (s : State) : (clearResult s).humI = 0 := rfl
@[simp] theorem clearResult_humF (s : State) : (clearResult s).humF = 0 := rfl
@[simp] theorem clearResult_tmpI (s : State) : (clearResult s).tmpI = 0 := rfl
@[simp] theorem clearResult_tmpF (s : State) : (clearResult s).tmpF = 0 := rfl
@[simp] theorem clearResult_cnt (s : State) : (clearResult s).cnt = s.cnt := rfl
@[simp] theorem clearResult_ovf (s : State) : (clearResult s).ovf = s.ovf := rfl
@[simp] theorem clearResult_ovp (s : State) : (clearResult s).ovp = s.ovp := rfl
@[simp] theorem clearResult_ie (s : State) : (clearResult s).ie = s.ie := rfl
@[simp] theorem clearResult_gmode (s : State) : (clearResult s).gmode = s.gmode := rfl
@[simp] theorem clearResult_sens (s : State) : (clearResult s).sens = s.sens := rfl
@[simp] theorem clearResult_start (s : State) : (clearResult s).start = s.start := rfl
@[simp] theorem clearResult_par (s : State) : (clearResult s).par = s.par := rfl
@[simp] theorem clearResult_args (s : State) : (clearResult s).args = s.args := rfl
@[simp] theorem clearResult_call (s : State) : (clearResult s).call = s.call := rfl
@[simp] theorem clearResult_ret (s : State) : (clearResult s).ret = s.ret := rfl
@[simp] theorem clearResult_unspecIx (s : State) : (clearResult s).unspecIx = s.unspecIx := rfl
@[simp] theorem clearResult_agenda (s : State) : (clearResult s).agenda = s.agenda := rfl
@[simp] theorem clearResult_turn (s : State) : (clearResult s).turn = s.turn := rfl
@[simp] theorem clearResult_issued (s : State) : (clearResult s).issued = s.issued := rfl

/-! ### `beginAttempt` -/

@[simp] theorem beginAttempt_stage (s : State) : (beginAttempt s).stage = .reset := rfl
@[simp] theorem beginAttempt_phase (s : State) : (beginAttempt s).phase = .skip := rfl
@[simp] theorem beginAttempt_t0 (s : State) : (beginAttempt s).t0 = nowOf s := rfl
@[simp] theorem beginAttempt_ts (s : State) : (beginAttempt s).ts = s.ts := rfl
@[simp] theorem beginAttempt_sample (s : State) : (beginAttempt s).sample = s.sample := rfl
@[simp] theorem beginAttempt_bitIdx (s : State) : (beginAttempt s).bitIdx = 0 := rfl
@[simp] theorem beginAttempt_frame (s : State) : (beginAttempt s).frame = [] := rfl
@[simp] theorem beginAttempt_busy (s : State) : (beginAttempt s).busy = true := rfl
@[simp] theorem beginAttempt_donef (s : State) : (beginAttempt s).donef = false := rfl
@[simp] theorem beginAttempt_resValid (s : State) : (beginAttempt s).resValid = false := rfl
@[simp] theorem beginAttempt_resReason (s : State) : (beginAttempt s).resReason = .unknown := rfl
@[simp] theorem beginAttempt_humI (s : State) : (beginAttempt s).humI = 0 := rfl
@[simp] theorem beginAttempt_humF (s : State) : (beginAttempt s).humF = 0 := rfl
@[simp] theorem beginAttempt_tmpI (s : State) : (beginAttempt s).tmpI = 0 := rfl
@[simp] theorem beginAttempt_tmpF (s : State) : (beginAttempt s).tmpF = 0 := rfl
@[simp] theorem beginAttempt_cnt (s : State) : (beginAttempt s).cnt = s.cnt := rfl
@[simp] theorem beginAttempt_ovf (s : State) : (beginAttempt s).ovf = s.ovf := rfl
@[simp] theorem beginAttempt_ovp (s : State) : (beginAttempt s).ovp = s.ovp := rfl
@[simp] theorem beginAttempt_ie (s : State) : (beginAttempt s).ie = s.ie := rfl
@[simp] theorem beginAttempt_gmode (s : State) : (beginAttempt s).gmode = .outputLow := rfl
@[simp] theorem beginAttempt_sens (s : State) : (beginAttempt s).sens = s.sens := rfl
@[simp] theorem beginAttempt_start (s : State) : (beginAttempt s).start = false := rfl
@[simp] theorem beginAttempt_par (s : State) : (beginAttempt s).par = s.par := rfl
@[simp] theorem beginAttempt_args (s : State) : (beginAttempt s).args = s.args := rfl
@[simp] theorem beginAttempt_call (s : State) : (beginAttempt s).call = s.call := rfl
@[simp] theorem beginAttempt_ret (s : State) : (beginAttempt s).ret = s.ret := rfl
@[simp] theorem beginAttempt_unspecIx (s : State) : (beginAttempt s).unspecIx = s.unspecIx := rfl
@[simp] theorem beginAttempt_agenda (s : State) : (beginAttempt s).agenda = s.agenda := rfl
@[simp] theorem beginAttempt_turn (s : State) : (beginAttempt s).turn = s.turn := rfl
@[simp] theorem beginAttempt_issued (s : State) : (beginAttempt s).issued = s.issued := rfl

/-! ### `publishFrame` -/

@[simp] theorem publishFrame_stage (s : State) : (publishFrame s).stage = .done := rfl
@[simp] theorem publishFrame_phase (s : State) : (publishFrame s).phase = s.phase := rfl
@[simp] theorem publishFrame_t0 (s : State) : (publishFrame s).t0 = s.t0 := rfl
@[simp] theorem publishFrame_ts (s : State) : (publishFrame s).ts = s.ts := rfl
@[simp] theorem publishFrame_sample (s : State) : (publishFrame s).sample = s.sample := rfl
@[simp] theorem publishFrame_bitIdx (s : State) : (publishFrame s).bitIdx = s.bitIdx := rfl
@[simp] theorem publishFrame_frame (s : State) : (publishFrame s).frame = s.frame := rfl
@[simp] theorem publishFrame_busy (s : State) : (publishFrame s).busy = s.busy := rfl
@[simp] theorem publishFrame_donef (s : State) : (publishFrame s).donef = s.donef := rfl
@[simp] theorem publishFrame_resValid (s : State) : (publishFrame s).resValid = true := rfl
@[simp] theorem publishFrame_resReason (s : State) : (publishFrame s).resReason = s.resReason := rfl
@[simp] theorem publishFrame_humI (s : State) : (publishFrame s).humI = Memory.read s.frame 0 := rfl
@[simp] theorem publishFrame_humF (s : State) : (publishFrame s).humF = Memory.read s.frame 1 := rfl
@[simp] theorem publishFrame_tmpI (s : State) : (publishFrame s).tmpI = Memory.read s.frame 2 := rfl
@[simp] theorem publishFrame_tmpF (s : State) : (publishFrame s).tmpF = Memory.read s.frame 3 := rfl
@[simp] theorem publishFrame_cnt (s : State) : (publishFrame s).cnt = s.cnt := rfl
@[simp] theorem publishFrame_ovf (s : State) : (publishFrame s).ovf = s.ovf := rfl
@[simp] theorem publishFrame_ovp (s : State) : (publishFrame s).ovp = s.ovp := rfl
@[simp] theorem publishFrame_ie (s : State) : (publishFrame s).ie = s.ie := rfl
@[simp] theorem publishFrame_gmode (s : State) : (publishFrame s).gmode = s.gmode := rfl
@[simp] theorem publishFrame_sens (s : State) : (publishFrame s).sens = s.sens := rfl
@[simp] theorem publishFrame_start (s : State) : (publishFrame s).start = s.start := rfl
@[simp] theorem publishFrame_par (s : State) : (publishFrame s).par = s.par := rfl
@[simp] theorem publishFrame_args (s : State) : (publishFrame s).args = s.args := rfl
@[simp] theorem publishFrame_call (s : State) : (publishFrame s).call = s.call := rfl
@[simp] theorem publishFrame_ret (s : State) : (publishFrame s).ret = s.ret := rfl
@[simp] theorem publishFrame_unspecIx (s : State) : (publishFrame s).unspecIx = s.unspecIx := rfl
@[simp] theorem publishFrame_agenda (s : State) : (publishFrame s).agenda = s.agenda := rfl
@[simp] theorem publishFrame_turn (s : State) : (publishFrame s).turn = s.turn := rfl
@[simp] theorem publishFrame_issued (s : State) : (publishFrame s).issued = s.issued := rfl

end Sys2Proof.Machine
end

