-- ==== Sys2Proof/Laws/Ops.lean ====
section
/-! SUPPORT. What each shared operation can do, said once: the provers cite these and unfold the operations no more. -/

namespace Sys2Proof.Machine

/-! ### Line and clock depend on a few fields only -/

theorem line_congr {s t : State} (hg : t.gmode = s.gmode) (hs : t.sens = s.sens) : line t = line s := by
  simp [line, hg, hs]

theorem clockTicks_congr {s t : State} (hc : t.cnt = s.cnt) (ho : t.ovf = s.ovf) (hp : t.ovp = s.ovp)
    (hq : t.par = s.par) : clockTicks t = clockTicks s := by
  simp [clockTicks, overflows, hc, ho, hp, hq]

theorem nowOf_congr {s t : State} (hc : t.cnt = s.cnt) (ho : t.ovf = s.ovf) (hp : t.ovp = s.ovp)
    (hq : t.par = s.par) : nowOf t = nowOf s := by
  simp [nowOf, clockTicks_congr hc ho hp hq, hq]

theorem line_low_iff (s : State) : line s = .low ↔ s.gmode = .outputLow ∨ s.sens = true := by
  unfold line; split <;> simp_all

theorem level_ne_iff (l l' : Level) : l ≠ l' ↔ l = l'.other := by
  cases l <;> cases l' <;> simp [Level.other]

/-! ### The poll and the measurement step -/

theorem poll_hit {lv l : Level} (limit t0 t : Time) (h : l = lv) : poll lv limit t0 l t = .hit t := by
  simp [poll, h]

theorem poll_timeout {lv l : Level} {limit t0 t : Time} (h : l ≠ lv) (ht : limit ≤ t - t0) :
    poll lv limit t0 l t = .timeout := by
  simp [poll, h, ht]

theorem poll_pending {lv l : Level} {limit t0 t : Time} (h : l ≠ lv) (ht : t - t0 < limit) :
    poll lv limit t0 l t = .pending := by
  have : ¬ limit ≤ t - t0 := by bv_omega
  simp [poll, h, this]

/-- A poll matches, times out or is pending. -/
theorem poll_cases (lv l : Level) (limit t0 t : Time) :
    (l = lv ∧ poll lv limit t0 l t = .hit t) ∨
      (l ≠ lv ∧ limit ≤ t - t0 ∧ poll lv limit t0 l t = .timeout) ∨
      (l ≠ lv ∧ t - t0 < limit ∧ poll lv limit t0 l t = .pending) := by
  by_cases h : l = lv
  · exact .inl ⟨h, poll_hit _ _ _ h⟩
  · by_cases ht : limit ≤ t - t0
    · exact .inr (.inl ⟨h, ht, poll_timeout h ht⟩)
    · have ht' : t - t0 < limit := by bv_omega
      exact .inr (.inr ⟨h, ht', poll_pending h ht'⟩)

/-- The level a phase of a measurement waits for (R149). -/
def wantedLevel (lv : Level) : Phase → Level
  | .skip | .trail | .reserved => lv.other
  | .lead => lv

/-- What a measurement step does on a match (R149). -/
def onMatch (ts t : Time) : Phase → PulseStep
  | .skip => .lead
  | .lead => .trail t
  | .trail => .done (t - ts)
  | .reserved => .wait

/-- A measurement step in a legal phase goes on, ends with sample 0, or waits. -/
theorem pulseStep_cases {lv l : Level} (limit : Time) {ph : Phase} (hph : ph ≠ .reserved) (t0 ts t : Time) :
    (l = wantedLevel lv ph ∧ pulseStep lv limit ph t0 ts l t = onMatch ts t ph) ∨
      (l ≠ wantedLevel lv ph ∧ limit ≤ t - t0 ∧ pulseStep lv limit ph t0 ts l t = .done 0) ∨
      (l ≠ wantedLevel lv ph ∧ t - t0 < limit ∧ pulseStep lv limit ph t0 ts l t = .wait) := by
  rcases poll_cases (wantedLevel lv ph) l limit t0 t with ⟨h, hp⟩ | ⟨h, ht, hp⟩ | ⟨h, ht, hp⟩ <;>
    cases ph <;> simp_all [wantedLevel, onMatch, pulseStep]

/-! ### The measuring stages -/

/-- What a `SYNCLOW` step can do (R149, R169 to R172): nothing, a phase change, a stamp, or the end of the measurement. -/
theorem synclowStep_cases (ph : Phase) (s : State) :
    synclowStep ph s = .next s ∨
      (ph = .skip ∧ synclowStep ph s = .next { s with phase := .lead }) ∨
      (ph = .lead ∧ synclowStep ph s = .next { s with ts := nowOf s, phase := .trail }) ∨
      ∃ w, (w = 0 ∨ (ph = .trail ∧ w = nowOf s - s.ts)) ∧ synclowStep ph s = .next (synclowDone w s) := by
  by_cases hph : ph = .reserved
  · subst hph; simp [synclowStep, synclowPulse, pulseStep]
  · unfold synclowStep synclowPulse
    rcases pulseStep_cases (lv := .low) (l := line s) Config.syncLowTimeoutUs hph s.t0 s.ts (nowOf s) with
      ⟨-, h⟩ | ⟨-, -, h⟩ | ⟨-, -, h⟩ <;> rw [h]
    · cases ph <;> simp [onMatch]
    · exact .inr (.inr (.inr ⟨0, .inl rfl, rfl⟩))
    · exact .inl rfl

/-- What a `RECEIVEBITS` step can do (R149, R174 to R177). -/
theorem rxStep_cases (ph : Phase) (s : State) :
    rxStep ph s = .next s ∨
      (ph = .skip ∧ rxStep ph s = .next { s with phase := .lead }) ∨
      (ph = .lead ∧ rxStep ph s = .next { s with ts := nowOf s, phase := .trail }) ∨
      ∃ w, (w = 0 ∨ (ph = .trail ∧ w = nowOf s - s.ts)) ∧ rxStep ph s = rxDone w s := by
  by_cases hph : ph = .reserved
  · subst hph; simp [rxStep, rxPulse, pulseStep]
  · unfold rxStep rxPulse
    rcases pulseStep_cases (lv := .high) (l := line s) Config.bitTimeoutUs hph s.t0 s.ts (nowOf s) with
      ⟨-, h⟩ | ⟨-, -, h⟩ | ⟨-, -, h⟩ <;> rw [h]
    · cases ph <;> simp [onMatch]
    · exact .inr (.inr (.inr ⟨0, .inl rfl, rfl⟩))
    · exact .inl rfl

/-- The end of the `SYNCLOW` measurement: a failure or the start of `SYNCHIGH` (R172). -/
theorem synclowDone_cases (w : Time) (s : State) :
    (w < 75#32 ∧ synclowDone w s = failWith .syncTimeout1 { s with sample := w, phase := .skip }) ∨
      (75#32 ≤ w ∧ synclowDone w s = { s with sample := w, phase := .skip, stage := .synchigh, t0 := nowOf s }) := by
  unfold synclowDone ackTooShort Config.syncLowMinUs
  by_cases h : w < 75#32
  · exact .inl ⟨h, if_pos (decide_eq_true h)⟩
  · exact .inr ⟨by bv_omega, if_neg (by simpa using h)⟩

/-- The state after a bit is stored (R177). -/
theorem takeBit_some {w : Time} {s : State} {m : Memory} (h : storeBit s.frame s.bitIdx.toNat (bitOf w) = some m) :
    takeBit w s = .next { s with
      sample := w, phase := .skip, frame := m, bitIdx := s.bitIdx + 1,
      stage := if s.bitIdx.toNat = 39 then .validate else s.stage,
      t0 := if s.bitIdx.toNat = 39 then s.t0 else nowOf s } := by
  unfold takeBit
  rw [h]
  unfold afterBit
  by_cases h39 : s.bitIdx.toNat = 39
  · simp [h39, Config.nBits]
  · have : ¬ s.bitIdx.toNat + 1 = Config.nBits := by simp [Config.nBits]; omega
    simp only [h39, this, if_false]
    rfl

/-- The end of a bit's measurement (R177): a failure, a stored bit, or no such bit in the store. -/
theorem rxDone_cases (w : Time) (s : State) :
    (w = 0 ∧ rxDone w s = .next (failWith .dataTimeout { s with sample := 0, phase := .skip })) ∨
      (w ≠ 0 ∧ s.bitIdx.toNat < 40 ∧ ∃ m, storeBit s.frame s.bitIdx.toNat (bitOf w) = some m ∧
        rxDone w s = .next { s with
          sample := w, phase := .skip, frame := m, bitIdx := s.bitIdx + 1,
          stage := if s.bitIdx.toNat = 39 then .validate else s.stage,
          t0 := if s.bitIdx.toNat = 39 then s.t0 else nowOf s }) ∨
      (w ≠ 0 ∧ 40 ≤ s.bitIdx.toNat ∧ rxDone w s = .fault .frameAddress) := by
  by_cases hw : w = 0
  · subst hw; exact .inl ⟨rfl, rfl⟩
  · refine .inr ?_
    have hr : rxDone w s = takeBit w s := if_neg hw
    rcases storeBit_cases s.frame s.bitIdx.toNat (bitOf w) with ⟨hi, hs⟩ | ⟨hi, hn⟩
    · exact .inl ⟨hw, hi, _, hs, by rw [hr, takeBit_some hs]⟩
    · exact .inr ⟨hw, hi, by rw [hr, takeBit, hn]⟩

/-- What `ST_SYNCHIGH` can do (R173). -/
theorem execStSynchigh_cases (s : State) :
    (line s = .low ∧ execStSynchigh s = .next { s with stage := .receivebits, phase := .skip, t0 := nowOf s }) ∨
      (line s = .high ∧ syncHighTimeout s ≤ elapsed s ∧ execStSynchigh s = .next (failWith .syncTimeout2 s)) ∨
      (line s = .high ∧ elapsed s < syncHighTimeout s ∧ execStSynchigh s = .next s) := by
  unfold execStSynchigh synchighPoll elapsed
  rcases poll_cases .low (line s) (syncHighTimeout s) s.t0 (nowOf s) with ⟨h, hp⟩ | ⟨h, ht, hp⟩ | ⟨h, ht, hp⟩ <;>
    rw [hp] <;> simp_all [level_ne_iff, Level.other]

/-! ### The step -/

/-- What a step can do: stop on a word that names no operation, stop on a stage word that is not selected, or run the
operation. -/
theorem step_cases (s : State) :
    (∃ e, decode (nextWord s) = .error e ∧ step s = noOperation s e) ∨
      (∃ i, decode (nextWord s) = .ok i ∧ selected s (nextWord s) = false ∧ step s = .fault .notSelected) ∨
      ∃ i, decode (nextWord s) = .ok i ∧ selected s (nextWord s) = true ∧ step s = exec i (taken s) := by
  unfold step
  cases hd : decode (nextWord s) with
  | error e => exact .inl ⟨e, rfl, rfl⟩
  | ok i =>
    cases hs : selected s (nextWord s) with
    | false => exact .inr (.inl ⟨i, rfl, rfl, by simp⟩)
    | true => exact .inr (.inr ⟨i, rfl, rfl, by simp⟩)

/-- If a step answers a next state, it ran the operation its word names on the state with that word taken. -/
theorem step_next {s t : State} (h : step s = .next t) :
    ∃ i, decode (nextWord s) = .ok i ∧ selected s (nextWord s) = true ∧ exec i (taken s) = .next t := by
  rcases step_cases s with ⟨e, -, hs⟩ | ⟨i, -, -, hs⟩ | ⟨i, hd, hsel, hs⟩
  · rw [hs, noOperation] at h; split at h <;> cases h
  · rw [hs] at h; cases h
  · exact ⟨i, hd, hsel, by rw [← hs, h]⟩

/-- Go on from a next state. -/
@[simp] theorem andThen_next (s : State) (f : State → Result) : andThen (.next s) f = f s := rfl

end Sys2Proof.Machine
end

