-- ==== Sys2Proof/Laws/Exec.lean ====
section
/-! SUPPORT. Everything an operation can do when it answers a next state, said once. -/

namespace Sys2Proof.Machine

/-- The effects of the operations: `Effect i s t` for every next state `t` that `i` can answer on `s`. -/
inductive Effect : Instr → State → State → Prop where
  | idleWait {s : State} (h : s.start = false) : Effect .stIdle s s
  | idleBegin {s : State} (h : s.start = true) : Effect .stIdle s (beginAttempt s)
  | resetWait {s : State} (h : elapsed s < resetLow s) : Effect .stReset s s
  | resetEnd {s : State} (h : resetLow s ≤ elapsed s) : Effect .stReset s { s with stage := .release }
  | release {s : State} :
      Effect .stRelease s { s with gmode := .inputPullup, t0 := nowOf s, stage := .synclow, phase := .skip }
  | synclowWait {i : Instr} {s : State} (hi : isSynclowStep i) : Effect i s s
  | synclowLead {s : State} : Effect .stSynclowSkip s { s with phase := .lead }
  | synclowTrail {s : State} : Effect .stSynclowLead s { s with ts := nowOf s, phase := .trail }
  | synclowFail {i : Instr} {s : State} {w : Time} (hi : isSynclowStep i) (hw : w < 75#32)
      (hv : w = 0 ∨ (i = .stSynclowTrail ∧ w = nowOf s - s.ts)) :
      Effect i s (failWith .syncTimeout1 { s with sample := w, phase := .skip })
  | synclowPass {s : State} (hw : 75#32 ≤ nowOf s - s.ts) :
      Effect .stSynclowTrail s
        { s with sample := nowOf s - s.ts, phase := .skip, stage := .synchigh, t0 := nowOf s }
  | synchighWait {s : State} (hl : line s = .high) (h : elapsed s < syncHighTimeout s) : Effect .stSynchigh s s
  | synchighFail {s : State} (hl : line s = .high) (h : syncHighTimeout s ≤ elapsed s) :
      Effect .stSynchigh s (failWith .syncTimeout2 s)
  | synchighEnd {s : State} (hl : line s = .low) :
      Effect .stSynchigh s { s with stage := .receivebits, phase := .skip, t0 := nowOf s }
  | rxWait {i : Instr} {s : State} (hi : isRxStep i) : Effect i s s
  | rxLead {s : State} : Effect .stRxSkip s { s with phase := .lead }
  | rxTrail {s : State} : Effect .stRxLead s { s with ts := nowOf s, phase := .trail }
  | rxFail {i : Instr} {s : State} (hi : isRxStep i) :
      Effect i s (failWith .dataTimeout { s with sample := 0, phase := .skip })
  | rxBit {s : State} {m : Memory} (hw : nowOf s - s.ts ≠ 0) (hb : s.bitIdx.toNat < 40)
      (hm : storeBit s.frame s.bitIdx.toNat (bitOf (nowOf s - s.ts)) = some m) :
      Effect .stRxTrail s { s with
        sample := nowOf s - s.ts, phase := .skip, frame := m, bitIdx := s.bitIdx + 1,
        stage := if s.bitIdx.toNat = 39 then .validate else s.stage,
        t0 := if s.bitIdx.toNat = 39 then s.t0 else nowOf s }
  | valid {s : State} (h : frameValid s.frame = true) : Effect .stValidate s (publishFrame s)
  | invalid {s : State} (h : frameValid s.frame = false) : Effect .stValidate s (failWith .checksumMismatch s)
  | done {s : State} : Effect .stDone s (endAttempt s)
  | answered {i : Instr} {s : State} (hi : isStageStep i = false) (ht : i ≠ .tick) (hr : i ≠ .hwReset) (r : PrimResult) (c : Call) :
      Effect i s (answer r { s with call := c })
  | outputLow {s : State} : Effect .setOutputLow s (driveLow s)
  | inputPullup {s : State} : Effect .setInputPullup s (releaseLine s)
  | tickWrap {s : State} (h : s.cnt = s.par.period - 1) : Effect .tick s { s with cnt := 0, ovp := true }
  | tickOn {s : State} (h : s.cnt ≠ s.par.period - 1) : Effect .tick s { s with cnt := s.cnt + 1 }
  | service {s : State} (hi : s.ie = true) (hp : s.ovp = true) :
      Effect .ovfService s { s with ovf := s.ovf + 1, ovp := false }
  | serviceOff {s : State} (h : s.ie = false ∨ s.ovp = false) : Effect .ovfService s s
  | drive {v : Bool} {s : State} : Effect (.sensorDrive v) s { s with sens := v }
  | command {s : State} (h : s.busy = false) : Effect .getReading s { s with start := true }
  | commandIgnored {s : State} (h : s.busy = true) : Effect .getReading s s
  | enable {v : Bool} {s : State} : Effect (.setIe v) s { s with ie := v }
  | reset {s : State} (a b c : Time) : Effect .hwReset s
      { clearResult s with
        stage := .idle, phase := .skip, busy := false, donef := false, start := false, cnt := 0, ovf := 0, ovp := false,
        ie := false, gmode := .inputPullup, t0 := a, ts := b, sample := c, unspecIx := s.unspecIx + 3, call := .none,
        ret := .none }

/-- A `SYNCLOW` step has one of the effects of the stage. -/
theorem synclowStep_effect {ph : Phase} {i : Instr} {s t : State} (hi : isSynclowStep i)
    (hskip : ph = .skip → i = .stSynclowSkip) (hlead : ph = .lead → i = .stSynclowLead)
    (htrail : ph = .trail → i = .stSynclowTrail) (h : synclowStep ph s = .next t) : Effect i s t := by
  rcases synclowStep_cases ph s with h' | ⟨hp, h'⟩ | ⟨hp, h'⟩ | ⟨w, hv, h'⟩ <;> rw [h'] at h <;> cases h
  · exact .synclowWait hi
  · rw [hskip hp]; exact .synclowLead
  · rw [hlead hp]; exact .synclowTrail
  · rcases synclowDone_cases w s with ⟨hw, hd⟩ | ⟨hw, hd⟩ <;> rw [hd]
    · exact .synclowFail hi hw (hv.imp id fun hv => ⟨htrail hv.1, hv.2⟩)
    · rcases hv with rfl | ⟨hp, rfl⟩
      · exact absurd hw (by decide)
      · rw [htrail hp]; exact .synclowPass hw

/-- A `RECEIVEBITS` step has one of the effects of the stage. -/
theorem rxStep_effect {ph : Phase} {i : Instr} {s t : State} (hi : isRxStep i)
    (hskip : ph = .skip → i = .stRxSkip) (hlead : ph = .lead → i = .stRxLead)
    (htrail : ph = .trail → i = .stRxTrail) (h : rxStep ph s = .next t) : Effect i s t := by
  rcases rxStep_cases ph s with h' | ⟨hp, h'⟩ | ⟨hp, h'⟩ | ⟨w, hv, h'⟩ <;> rw [h'] at h
  · cases h; exact .rxWait hi
  · cases h; rw [hskip hp]; exact .rxLead
  · cases h; rw [hlead hp]; exact .rxTrail
  · rcases rxDone_cases w s with ⟨-, hd⟩ | ⟨hw, hb, m, hm, hd⟩ | ⟨-, -, hd⟩ <;> rw [hd] at h <;> cases h
    · exact .rxFail hi
    · rcases hv with rfl | ⟨hp, rfl⟩
      · exact absurd rfl hw
      · rw [htrail hp]; exact .rxBit hw hb hm

/-- Every next state of every operation is one of its effects. -/
theorem exec_effect {i : Instr} {s t : State} (h : exec i s = .next t) : Effect i s t := by
  cases i with
  | stIdle =>
    simp only [exec, execStIdle] at h
    split at h <;> cases h
    · exact .idleBegin ‹_›
    · rename_i hs; exact .idleWait (Bool.eq_false_iff.2 hs)
  | stReset =>
    simp only [exec, execStReset] at h
    split at h <;> cases h
    · exact .resetEnd ‹_›
    · exact .resetWait (by have := ‹¬ resetLow s ≤ elapsed s›; bv_omega)
  | stRelease => cases h; exact .release
  | stSynclowSkip => exact synclowStep_effect (.inl rfl) (by simp) (by simp) (by simp) h
  | stSynclowLead => exact synclowStep_effect (.inr (.inl rfl)) (by simp) (by simp) (by simp) h
  | stSynclowTrail => exact synclowStep_effect (.inr (.inr rfl)) (by simp) (by simp) (by simp) h
  | stSynchigh =>
    rcases execStSynchigh_cases s with ⟨hl, h'⟩ | ⟨hl, ht, h'⟩ | ⟨hl, ht, h'⟩ <;>
      rw [show exec .stSynchigh s = execStSynchigh s from rfl, h'] at h <;> cases h
    · exact .synchighEnd hl
    · exact .synchighFail hl ht
    · exact .synchighWait hl ht
  | stRxSkip => exact rxStep_effect (.inl rfl) (by simp) (by simp) (by simp) h
  | stRxLead => exact rxStep_effect (.inr (.inl rfl)) (by simp) (by simp) (by simp) h
  | stRxTrail => exact rxStep_effect (.inr (.inr rfl)) (by simp) (by simp) (by simp) h
  | stValidate =>
    simp only [exec, execStValidate] at h
    split at h <;> cases h
    · exact .valid ‹_›
    · rename_i hs; exact .invalid (Bool.eq_false_iff.2 hs)
  | stDone => cases h; exact .done
  | now => cases h; exact .answered rfl (by simp) (by simp) _ s.call
  | setOutputLow => cases h; exact .outputLow
  | setInputPullup => cases h; exact .inputPullup
  | read => cases h; exact .answered rfl (by simp) (by simp) _ s.call
  | waitForLevel l =>
    simp only [exec, execWaitForLevel] at h
    split at h <;> cases h <;> exact .answered rfl (by simp) (by simp) _ _
  | measurePulse l =>
    simp only [exec, execMeasurePulse, keepMeasuring] at h
    split at h <;> cases h <;> exact .answered rfl (by simp) (by simp) _ _
  | checksum => cases h; exact .answered rfl (by simp) (by simp) _ s.call
  | fractional => cases h; exact .answered rfl (by simp) (by simp) _ s.call
  | tick =>
    simp only [exec, execTick, atWrap, beq_iff_eq] at h
    split at h <;> cases h
    · exact .tickWrap ‹_›
    · exact .tickOn ‹_›
  | ovfService =>
    simp only [exec, execOvfService, serviceEnabled, Bool.and_eq_true] at h
    split at h <;> cases h
    · rename_i hs; exact .service hs.1 hs.2
    · rename_i hs
      refine .serviceOff ?_
      cases hi : s.ie <;> cases hp : s.ovp <;> simp_all
  | sensorDrive v => cases h; exact .drive
  | getReading =>
    simp only [exec, execGetReading] at h
    split at h <;> cases h
    · exact .commandIgnored ‹_›
    · rename_i hs; exact .command (Bool.eq_false_iff.2 hs)
  | hwReset => cases h; exact .reset _ _ _
  | setIe v => cases h; exact .enable

/-- An operation answers a next state, or it is a bit store beyond the frame. -/
theorem exec_completes (i : Instr) (s : State) (h : isRxStep i → s.bitIdx.toNat < 40) : ∃ t, exec i s = .next t := by
  have hrx : ∀ ph, isRxStep i → ∃ t, rxStep ph s = .next t := by
    intro ph hi
    rcases rxStep_cases ph s with h' | ⟨-, h'⟩ | ⟨-, h'⟩ | ⟨w, -, h'⟩
    · exact ⟨_, h'⟩
    · exact ⟨_, h'⟩
    · exact ⟨_, h'⟩
    · rcases rxDone_cases w s with ⟨-, hd⟩ | ⟨-, -, m, -, hd⟩ | ⟨-, hb, -⟩
      · exact ⟨_, h'.trans hd⟩
      · exact ⟨_, h'.trans hd⟩
      · exact absurd (h hi) (by omega)
  have hsy : ∀ ph, ∃ t, synclowStep ph s = .next t := by
    intro ph
    rcases synclowStep_cases ph s with h' | ⟨-, h'⟩ | ⟨-, h'⟩ | ⟨w, -, h'⟩ <;> exact ⟨_, h'⟩
  cases i with
  | stSynclowSkip => exact hsy _
  | stSynclowLead => exact hsy _
  | stSynclowTrail => exact hsy _
  | stSynchigh => rcases execStSynchigh_cases s with ⟨-, h'⟩ | ⟨-, -, h'⟩ | ⟨-, -, h'⟩ <;> exact ⟨_, h'⟩
  | stRxSkip => exact hrx _ (.inl rfl)
  | stRxLead => exact hrx _ (.inr (.inl rfl))
  | stRxTrail => exact hrx _ (.inr (.inr rfl))
  | waitForLevel l => simp only [exec, execWaitForLevel]; split <;> exact ⟨_, rfl⟩
  | measurePulse l => simp only [exec, execMeasurePulse]; split <;> exact ⟨_, rfl⟩
  | _ => exact ⟨_, rfl⟩

end Sys2Proof.Machine
end

