-- ==== Sys2Proof/Laws/PerInstr.lean ====
section
/-! SUPPORT. Facts about every instruction as syntax, one lemma per constructor. -/

namespace Sys2Proof.Laws.EncodesUnreserved

/-- The instruction's word is none that R96 (a) reserves, and its type holds well-formed operands only. -/
def Statement (i : Instr) : Prop := i.wf = true ∧ wordWf (encode i) = true

theorem stIdle : Statement .stIdle := ⟨rfl, by decide⟩
theorem stReset : Statement .stReset := ⟨rfl, by decide⟩
theorem stRelease : Statement .stRelease := ⟨rfl, by decide⟩
theorem stSynclowSkip : Statement .stSynclowSkip := ⟨rfl, by decide⟩
theorem stSynclowLead : Statement .stSynclowLead := ⟨rfl, by decide⟩
theorem stSynclowTrail : Statement .stSynclowTrail := ⟨rfl, by decide⟩
theorem stSynchigh : Statement .stSynchigh := ⟨rfl, by decide⟩
theorem stRxSkip : Statement .stRxSkip := ⟨rfl, by decide⟩
theorem stRxLead : Statement .stRxLead := ⟨rfl, by decide⟩
theorem stRxTrail : Statement .stRxTrail := ⟨rfl, by decide⟩
theorem stValidate : Statement .stValidate := ⟨rfl, by decide⟩
theorem stDone : Statement .stDone := ⟨rfl, by decide⟩
theorem now : Statement .now := ⟨rfl, by decide⟩
theorem setOutputLow : Statement .setOutputLow := ⟨rfl, by decide⟩
theorem setInputPullup : Statement .setInputPullup := ⟨rfl, by decide⟩
theorem read : Statement .read := ⟨rfl, by decide⟩
theorem waitForLevel (l : Level) : Statement (.waitForLevel l) := by cases l <;> exact ⟨rfl, by decide⟩
theorem measurePulse (l : Level) : Statement (.measurePulse l) := by cases l <;> exact ⟨rfl, by decide⟩
theorem checksum : Statement .checksum := ⟨rfl, by decide⟩
theorem fractional : Statement .fractional := ⟨rfl, by decide⟩
theorem tick : Statement .tick := ⟨rfl, by decide⟩
theorem ovfService : Statement .ovfService := ⟨rfl, by decide⟩
theorem sensorDrive (v : Bool) : Statement (.sensorDrive v) := by cases v <;> exact ⟨rfl, by decide⟩
theorem getReading : Statement .getReading := ⟨rfl, by decide⟩
theorem hwReset : Statement .hwReset := ⟨rfl, by decide⟩
theorem setIe (v : Bool) : Statement (.setIe v) := by cases v <;> exact ⟨rfl, by decide⟩

end Sys2Proof.Laws.EncodesUnreserved
end

