-- ==== Sys2Proof/Laws/Schedule.lean ====
section
/-! SUPPORT. What one move of a schedule does, how runs of moves are put together, and the counting of ticks. -/

namespace Sys2Proof.Machine

/-! ### One move -/

/-- The word of a move is always one that the step selects: an event word, or the DECODER's own. -/
theorem selected_word (s : State) (m : Move) : selected s (m.word (decoderWord s)) = true := by
  have event : ∀ w : Byte, (opField w 6 2 != 0) = true → selected s w = true := fun w h => by simp [selected, h]
  cases m with
  | decoder => simp [selected, Move.word]
  | drive v => cases v <;> exact event (encode (.sensorDrive _)) (by decide)
  | enable v => cases v <;> exact event (encode (.setIe _)) (by decide)
  | timer => exact event (encode .tick) (by decide)
  | irq => exact event (encode .ovfService) (by decide)
  | command => exact event (encode .getReading) (by decide)
  | reset => exact event (encode .hwReset) (by decide)

/-- A state with one more move listed, once that move is taken. -/
theorem taken_listed {s : State} (m : Move) (h : s.issued = none) : taken { s with agenda := m :: s.agenda } = s := by
  simp only [taken, h]
  rw [← h]

/-- The word of a listed move comes next. -/
theorem nextWord_listed {s : State} (m : Move) (h : s.issued = none) :
    nextWord { s with agenda := m :: s.agenda } = m.word (decoderWord s) := by
  simp only [nextWord, h]; rfl

/-- A move whose word names an operation runs it on the state it is made in. -/
theorem moveNow_exec {m : Move} {s : State} {i : Instr} (h : s.issued = none)
    (hd : decode (m.word (decoderWord s)) = .ok i) : moveNow m s = exec i s := by
  have hs : selected { s with agenda := m :: s.agenda } (m.word (decoderWord s)) = true := selected_word s m
  simp only [moveNow, step, nextWord_listed m h, hd, hs, if_true, taken_listed m h]

/-- All that a move can do: run the operation its word names, or be stuck on a word that names none. -/
theorem moveNow_cases (m : Move) {s : State} (h : s.issued = none) :
    (∃ i, decode (m.word (decoderWord s)) = .ok i ∧ moveNow m s = exec i s) ∨
      ((∃ e, decode (m.word (decoderWord s)) = .error e) ∧ moveNow m s = .fault .stuck) := by
  cases hd : decode (m.word (decoderWord s)) with
  | ok i => exact .inl ⟨i, rfl, moveNow_exec h hd⟩
  | error e =>
    refine .inr ⟨⟨e, rfl⟩, ?_⟩
    simp only [moveNow, step, nextWord_listed m h, hd]
    simp [noOperation, h]

/-- The operation of a move that answers a next state. -/
theorem moveNow_next {m : Move} {s t : State} (h : s.issued = none) (ht : moveNow m s = .next t) :
    ∃ i, decode (m.word (decoderWord s)) = .ok i ∧ exec i s = .next t := by
  rcases moveNow_cases m h with ⟨i, hd, he⟩ | ⟨-, he⟩
  · exact ⟨i, hd, he ▸ ht⟩
  · rw [he] at ht; cases ht

/-- The DECODER's word names a stage step or nothing. -/
theorem decoderWord_isStageStep {s : State} {i : Instr} (h : decode (decoderWord s) = .ok i) : isStageStep i = true := by
  have hall : ∀ st ph, ∀ i, decode (stageWord (Stage.code st) (Phase.code ph)) = .ok i → isStageStep i = true := by
    intro st ph i h
    cases st <;> cases ph <;> first | (cases h; rfl) | cases h
  exact hall _ _ _ h

/-! ### Runs -/

/-- A run of `n` + 1 moves is a run of `n` and the next move. -/
theorem runSchedule_succ (schedule : Nat → Move) (n : Nat) : ∀ (k : Nat) (s : State),
    runSchedule schedule k (n + 1) s = andThen (runSchedule schedule k n s) (moveNow (schedule (k + n))) := by
  induction n with
  | zero =>
    intro k s
    simp only [runSchedule, andThen_next, Nat.add_zero]
    cases moveNow (schedule k) s <;> rfl
  | succ n ih =>
    intro k s
    rw [runSchedule, runSchedule]
    cases moveNow (schedule k) s with
    | next u => rw [andThen_next, andThen_next, ih (k + 1) u, Nat.add_right_comm, Nat.add_assoc]
    | fault r => rfl
    | refused r => rfl

/-- A settling of at most `n` + 1 steps is one DECODER step and, unless it is a stutter, a settling of at most `n`. -/
theorem settle_succ (n : Nat) (s : State) :
    settle (n + 1) s = andThen (moveNow .decoder s) fun t => if t = s then .next s else settle n t := rfl

/-! ### Ticks of a schedule -/

@[simp] theorem ticksBetween_self (schedule : Nat → Move) (a : Nat) : ticksBetween schedule a a = 0 := by
  simp [ticksBetween]

/-- One move more is one tick more where that move is the TIMER's. -/
theorem ticksBetween_succ (schedule : Nat → Move) {a b : Nat} (h : a ≤ b) :
    ticksBetween schedule a (b + 1) = ticksBetween schedule a b + if schedule b = .timer then 1 else 0 := by
  unfold ticksBetween
  rw [Nat.succ_sub h, List.range'_concat]
  simp [List.count_append, Nat.add_sub_cancel' h, List.count_singleton]

/-- Ticks add up over a split of the moves. -/
theorem ticksBetween_split (schedule : Nat → Move) {a b c : Nat} (hab : a ≤ b) (hbc : b ≤ c) :
    ticksBetween schedule a c = ticksBetween schedule a b + ticksBetween schedule b c := by
  induction c, hbc using Nat.le_induction with
  | base => simp
  | succ c hc ih => rw [ticksBetween_succ _ (hab.trans hc), ticksBetween_succ _ hc, ih, Nat.add_assoc]

end Sys2Proof.Machine
end

