-- ==== Sys2Proof/Tests/Slice0.lean ====
section
/-! SUPPORT. Small tests: an ill-formed term for each check, one word written out for every operation, one step at a time on a
small state with values from spec/95_test_vectors.md (part 2) or worked out from the rule, and a witness for every statement that
has hypotheses. -/

namespace Sys2Proof.Tests

open Sys2Proof.Machine

/-! ### Well-formedness: what each check refuses (V-E-2) -/

theorem test_wf_class : classOk 0b11000000#8 = false ∧ wordWf 0xC0#8 = false ∧ wordWf 0xFF#8 = false := by decide
theorem test_wf_stageBit : stageBitOk 0b00100000#8 = false ∧ wordWf 0x20#8 = false := by decide
theorem test_wf_stagePair : stagePairOk 0x01#8 = false ∧ stagePairOk 0x0F#8 = false ∧ stagePairOk 0x11#8 = false := by decide
theorem test_wf_lowBits : lowBitsOk 0x41#8 = false ∧ lowBitsOk 0x82#8 = false := by decide
theorem test_wf_operandBit : operandBitOk 0x44#8 = false ∧ operandBitOk 0x84#8 = false := by decide
theorem test_wf_event : eventOk 0xB0#8 = false ∧ eventOk 0xB8#8 = false := by decide
theorem test_wf_counterBits : ({ Config.Params.reference with counterBits := 0 }).wf = false := by decide
theorem test_wf_usPerTick : ({ Config.Params.reference with usPerTick := 0 }).wf = false := by decide
theorem test_wf_syncHigh : ({ Config.Params.reference with syncHighTimeoutUs := 99 }).wf = false ∧
    ({ Config.Params.reference with syncHighTimeoutUs := 5001 }).wf = false := by decide
theorem test_wf_resetLow : ({ Config.Params.reference with resetLowUs := 17999 }).wf = false ∧
    ({ Config.Params.reference with resetLowUs := 20001 }).wf = false := by decide
theorem test_wf_ranges : ({ Config.Params.reference with syncHighTimeoutUs := 5000, resetLowUs := 20000 }).wf = true := by decide
theorem test_wf_instr : (Instr.waitForLevel .high).wf = true := by decide

/-! ### Decoding: words written out from R93, R94, R95 -/

theorem test_decode_stIdle : decode 0b00000000#8 = .ok .stIdle := by rfl
theorem test_decode_stReset : decode 0b00000100#8 = .ok .stReset := by rfl
theorem test_decode_stRelease : decode 0b00001000#8 = .ok .stRelease := by rfl
theorem test_decode_stSynclowSkip : decode 0b00001100#8 = .ok .stSynclowSkip := by rfl
theorem test_decode_stSynclowLead : decode 0b00001101#8 = .ok .stSynclowLead := by rfl
theorem test_decode_stSynclowTrail : decode 0b00001110#8 = .ok .stSynclowTrail := by rfl
theorem test_decode_stSynchigh : decode 0b00010000#8 = .ok .stSynchigh := by rfl
theorem test_decode_stRxSkip : decode 0b00010100#8 = .ok .stRxSkip := by rfl
theorem test_decode_stRxLead : decode 0b00010101#8 = .ok .stRxLead := by rfl
theorem test_decode_stRxTrail : decode 0b00010110#8 = .ok .stRxTrail := by rfl
theorem test_decode_stValidate : decode 0b00011000#8 = .ok .stValidate := by rfl
theorem test_decode_stDone : decode 0b00011100#8 = .ok .stDone := by rfl
theorem test_decode_now : decode 0b01000000#8 = .ok .now := by rfl
theorem test_decode_setOutputLow : decode 0b01001000#8 = .ok .setOutputLow := by rfl
theorem test_decode_setInputPullup : decode 0b01010000#8 = .ok .setInputPullup := by rfl
theorem test_decode_read : decode 0b01011000#8 = .ok .read := by rfl
theorem test_decode_waitForLevel : decode 0b01100000#8 = .ok (.waitForLevel .low) ∧
    decode 0b01100100#8 = .ok (.waitForLevel .high) := ⟨rfl, rfl⟩
theorem test_decode_measurePulse : decode 0b01101000#8 = .ok (.measurePulse .low) ∧
    decode 0b01101100#8 = .ok (.measurePulse .high) := ⟨rfl, rfl⟩
theorem test_decode_checksum : decode 0b01110000#8 = .ok .checksum := by rfl
theorem test_decode_fractional : decode 0b01111000#8 = .ok .fractional := by rfl
theorem test_decode_tick : decode 0b10000000#8 = .ok .tick := by rfl
theorem test_decode_ovfService : decode 0b10001000#8 = .ok .ovfService := by rfl
theorem test_decode_sensorDrive : decode 0b10010000#8 = .ok (.sensorDrive false) ∧
    decode 0b10010100#8 = .ok (.sensorDrive true) := ⟨rfl, rfl⟩
theorem test_decode_getReading : decode 0b10011000#8 = .ok .getReading := by rfl
theorem test_decode_hwReset : decode 0b10100000#8 = .ok .hwReset := by rfl
theorem test_decode_setIe : decode 0b10101000#8 = .ok (.setIe false) ∧ decode 0b10101100#8 = .ok (.setIe true) := ⟨rfl, rfl⟩

/-- V-E-2, each refused for its own reason. -/
theorem test_decode_reserved :
    decode 0x01#8 = .error .reservedStagePair ∧ decode 0x0F#8 = .error .reservedStagePair ∧
      decode 0x11#8 = .error .reservedStagePair ∧ decode 0x20#8 = .error .reservedStageBit ∧
      decode 0x44#8 = .error .reservedOperand ∧ decode 0x41#8 = .error .reservedLowBits ∧
      decode 0xB0#8 = .error .reservedEvent ∧ decode 0xC0#8 = .error .reservedClass ∧
      decodeBytes [] = .error .noWord := ⟨rfl, rfl, rfl, rfl, rfl, rfl, rfl, rfl, rfl⟩

theorem test_decodeTableWord : decodeTableWord 8 0x0D = some .stSynclowLead ∧ decodeTableWord 8 0xC0 = none := by decide

/-! ### Small states -/

/-- The reset state with the clock at `n` microseconds (`P` = 256, `U` = 1). -/
def clockAt (n : Nat) : State :=
  { State.reset with ovf := BitVec.ofNat 32 (n / 256), cnt := n % 256 }

/-- An attempt in stage `st`, phase `ph`, at clock value `n`, with origin `t0`, stamp `ts` and the sensor's drive `v`. -/
def inStage (st : Stage) (ph : Phase) (n : Nat) (t0 ts : Time) (v : Bool) : State :=
  { clockAt n with stage := st, phase := ph, busy := true, t0 := t0, ts := ts, sens := v }

/-- The clock one tick before a wrap. -/
def beforeWrap : State := { State.reset with cnt := 255, ovf := 3 }

/-- A wrap is pending and its service enabled. -/
def wrapPending : State := { State.reset with ovf := 3, ovp := true, ie := true }

/-- The frame {45, 0, 23, 0, b4}: the third byte of the frame is its index 2. -/
def frameWith (b4 : Byte) : Memory := [(0, 45#8), (2, 23#8), (4, b4)]

/-- All bits received. -/
def received (b4 : Byte) : State := { inStage .validate .skip 0 0 0 false with frame := frameWith b4, bitIdx := 40 }

/-- Bit number `i` is being received, `w` microseconds into its pulse. -/
def inPulse (i : BitVec 6) (w : Nat) (v : Bool) : State :=
  { inStage .receivebits .trail (18220 + w) 18170 18220 v with bitIdx := i }

/-- A primitive's operands. -/
def withArgs (limit : Time) (t0 : Option Time) (s : State) : State := { s with args := ⟨limit, t0, 45, 0, 23, 0⟩ }

/-- What a test reads off a result; none where the machine stopped. -/
def got {α : Type} (o : Result) (f : State → α) : Option α :=
  match o with
  | .next t => some (f t)
  | .fault _ => none
  | .refused _ => none

/-! ### One step at a time -/

theorem test_tick_wraps : got (exec .tick beforeWrap) (fun t => (t.cnt, t.ovp, nowOf t)) = some (0, true, 1024#32) := by
  decide -- V-CLK-2
theorem test_tick_counts : got (exec .tick wrapPending) (fun t => (t.cnt, t.ovp)) = some (1, true) := by decide
theorem test_service : got (exec .ovfService wrapPending) (fun t => (t.ovf, t.ovp, nowOf t)) = some (4#32, false, 1024#32) := by
  decide -- V-CLK-3
theorem test_service_wraps : got (exec .ovfService { wrapPending with ovf := 0xFFFFFFFF#32, cnt := 5 })
    (fun t => (t.ovf, nowOf t)) = some (0#32, 5#32) := by decide -- V-CLK-5
theorem test_setIe : got (exec (.setIe false) wrapPending) (fun t => (t.ie, t.ovp)) = some (false, true) := by
  decide -- V-CLK-9
theorem test_now_folds : got (exec .now wrapPending) (fun t => (t.ret, t.ovp)) = some (.time 1024#32, true) := by
  rfl -- V-CLK-3
theorem test_now_multiplies : nowOf { State.resetWith { Config.Params.reference with usPerTick := 3 } with
    ovf := 0x00555555#32, cnt := 0x56 } = 2#32 := by decide -- V-CLK-7
theorem test_setOutputLow : got (exec .setOutputLow State.reset) (fun t => (t.gmode, line t)) = some (.outputLow, .low) := by
  decide -- V-IO-1
theorem test_setInputPullup : got (exec .setInputPullup { State.reset with gmode := .outputLow, sens := true })
    (fun t => (t.gmode, line t)) = some (.inputPullup, .low) := by decide -- V-IO-3
theorem test_sensorDrive : got (exec (.sensorDrive true) State.reset) (fun t => (t.sens, line t)) = some (true, .low) := by
  decide -- V-IO-4
theorem test_sensorDrive_release : got (exec (.sensorDrive false) { State.reset with sens := true })
    (fun t => (t.sens, line t)) = some (false, .high) := by decide -- V-IO-5
theorem test_read : got (exec .read { State.reset with sens := true }) (fun t => t.ret) = some (.level .low) := by
  rfl -- V-IO-4
theorem test_poll : poll .low 100 1000 .high 1099 = .pending ∧ poll .low 100 1000 .high 1100 = .timeout ∧
    poll .low 100 1000 .low 1100 = .hit 1100 ∧ poll .low 100 0xFFFFFFF0 .high 0x53 = .pending ∧
    poll .low 100 0xFFFFFFF0 .high 0x54 = .timeout := by decide -- V-W-1, 2, 5, 6, 7
theorem test_waitForLevel_timeout : got (exec (.waitForLevel .low) (withArgs 100 (some 2000) (clockAt 2100)))
    (fun t => t.ret) = some (.bool false) := by rfl -- V-W-8
theorem test_waitForLevel_pending : got (exec (.waitForLevel .low) (withArgs 100 none (clockAt 2000)))
    (fun t => t.call) = some (.waiting .low 100 2000) := by rfl -- V-W-8
theorem test_measurePulse_begins : got (exec (.measurePulse .high) { withArgs 140 none (clockAt 1000) with sens := true })
    (fun t => t.call) = some (.measuring .high 140 1000 .lead 1000) := by rfl -- V-M-1
theorem test_measurePulse_width : got (exec (.measurePulse .high)
    { clockAt 1140 with sens := true, call := .measuring .high 140 1000 .trail 1050 }) (fun t => t.ret) =
      some (.sample 90) := by rfl -- V-M-6: the level is tested first
theorem test_checksum : got (exec .checksum (withArgs 0 none State.reset)) (fun t => t.ret) = some (.byte 68) := by
  rfl -- V-C-3
theorem test_checksumOf : checksumOf 255 255 255 255 = 252 ∧ checksumOf 255 1 0 0 = 0 ∧ checksumOf 200 100 50 25 = 119 := by
  decide -- V-C-3
theorem test_scale : scaleOf 0 = 0 ∧ scaleOf 1 = 1 ∧ scaleOf 9 = 1 ∧ scaleOf 10 = 2 ∧ scaleOf 99 = 2 ∧ scaleOf 100 = 3 ∧
    scaleOf 255 = 3 := by decide -- V-C-4
theorem test_fraction : fractionOf 25#8 = 1 / 4 ∧ fractionOf 255#8 = 51 / 200 := by
  constructor <;> simp [fractionOf, fractionLoop] <;> norm_num -- V-C-4
theorem test_bitOf : bitOf 1 = false ∧ bitOf 60 = false ∧ bitOf 61 = true ∧ bitOf 0xFFFFFFFF = true := by decide -- V-C-1
theorem test_bitPosition : (byteOf 7, bitOfByte 7) = (0, 0) ∧ (byteOf 8, bitOfByte 8) = (1, 7) ∧
    (byteOf 39, bitOfByte 39) = (4, 0) := by decide -- V-C-2
theorem test_getReading : got (exec .getReading State.reset) (fun t => t.start) = some true := by decide -- V-D-18
theorem test_getReading_busy : got (exec .getReading (received 68)) (fun t => t.start) = some false := by decide -- V-D-18
theorem test_stIdle : got (exec .stIdle { clockAt 7 with start := true, donef := true, resReason := .dataTimeout })
    (fun t => (t.start, t.busy, t.donef, t.resReason, t.gmode, t.t0, t.stage)) =
      some (false, true, false, .unknown, .outputLow, 7#32, .reset) := by rfl -- R166
theorem test_stReset : got (exec .stReset (inStage .reset .skip 18000 0 0 false)) (fun t => t.stage) = some .release ∧
    got (exec .stReset (inStage .reset .skip 17999 0 0 false)) (fun t => t.stage) = some .reset := by decide -- R167
theorem test_stRelease : got (exec .stRelease { inStage .release .skip 18000 0 0 false with gmode := .outputLow })
    (fun t => (t.gmode, t.t0, t.stage)) = some (.inputPullup, 18000#32, .synclow) := by decide -- R168
theorem test_stSynclowSkip : got (exec .stSynclowSkip (inStage .synclow .skip 18100 18000 0 true))
    (fun t => (t.stage, t.resReason, t.sample)) = some (.done, .syncTimeout1, 0#32) := by decide -- V-D-15
theorem test_stSynclowLead : got (exec .stSynclowLead (inStage .synclow .lead 18010 18000 0 true))
    (fun t => (t.ts, t.phase)) = some (18010#32, .trail) := by decide -- R170
theorem test_stSynclowTrail_pass : got (exec .stSynclowTrail (inStage .synclow .trail 18085 18000 18010 false))
    (fun t => (t.sample, t.stage, t.t0)) = some (75#32, .synchigh, 18085#32) := by decide -- V-D-4
theorem test_stSynclowTrail_fail : got (exec .stSynclowTrail (inStage .synclow .trail 18084 18000 18010 false))
    (fun t => (t.sample, t.stage, t.resReason)) = some (74#32, .done, .syncTimeout1) := by decide -- V-D-3
theorem test_stSynchigh_pass : got (exec .stSynchigh (inStage .synchigh .skip 18190 18090 0 true))
    (fun t => (t.stage, t.t0)) = some (.receivebits, 18190#32) := by decide -- V-D-11
theorem test_stSynchigh_fail : got (exec .stSynchigh (inStage .synchigh .skip 18190 18090 0 false))
    (fun t => (t.stage, t.resReason)) = some (.done, .syncTimeout2) := by decide -- V-D-11
theorem test_stRxSkip : got (exec .stRxSkip (inStage .receivebits .skip 18170 18170 0 true)) (fun t => t.phase) =
    some .lead := by decide -- R174
theorem test_stRxLead : got (exec .stRxLead (inStage .receivebits .lead 18310 18170 0 true))
    (fun t => (t.stage, t.resReason)) = some (.done, .dataTimeout) := by decide -- R175
theorem test_stRxTrail_bit : got (exec .stRxTrail (inPulse 2 70 true)) (fun t => (t.frame, t.bitIdx, t.t0)) =
    some ([(0, 0x20#8)], 3#6, 18290#32) := by decide -- R177
theorem test_stRxTrail_last : got (exec .stRxTrail (inPulse 39 61 true)) (fun t => (t.frame, t.stage, t.t0)) =
    some ([(4, 1#8)], .validate, 18170#32) := by decide -- R177 (a), V-D-7
theorem test_stValidate_match : got (exec .stValidate (received 68))
    (fun t => (t.resValid, t.humI, t.tmpI, t.stage)) = some (true, 45#8, 23#8, .done) := by decide -- R178
theorem test_stValidate_mismatch : got (exec .stValidate (received 69))
    (fun t => (t.resValid, t.resReason, t.humI, t.stage)) = some (false, .checksumMismatch, 0#8, .done) := by decide -- R178
theorem test_stDone : got (exec .stDone (inStage .done .skip 0 0 0 false)) (fun t => (t.busy, t.donef, t.stage)) =
    some (false, true, .idle) := by decide -- R179
theorem test_hwReset : got (exec .hwReset { received 68 with sens := true, gmode := .outputLow, cnt := 9 })
    (fun t => (t.stage, t.frame, t.cnt, t.gmode, t.sens, t.donef)) = some (.idle, [], 0, .inputPullup, true, false) := by
  rfl -- R245
theorem test_frameWord : frameWord (frameWith 68) = 0x2D00170044#40 := by decide -- V-E-3
theorem test_ports : (portsOf { State.reset with humF := 5, tmpF := 8 }).humK = 1 ∧ (portsOf State.reset).padPue = true := by
  decide -- V-C-5, R39
theorem test_withFetchWord : got (step (State.reset.withFetchWord 8 0x0D)) (fun t => t.stage) = some .synclow := by decide
theorem test_withFetchWord_event : got (step (State.reset.withFetchWord 8 0x98)) (fun t => t.start) = some true := by decide
theorem test_step_agenda : got (step { State.reset with agenda := [.timer, .command] })
    (fun t => (t.cnt, t.agenda)) = some (1, [.command]) := by decide

/-! ### Witnesses: for every statement with hypotheses, states and operands that meet them, clause by clause

The state after a one-step witness is not named: `Runs i s` says that `exec i s` answers some next state. -/

/-- `exec i s` answers a next state. -/
def Runs (i : Instr) (s : State) : Prop := ∃ t, exec i s = .next t

theorem wit_StepRunsTheDecodedOperation_issued : ∃ s : State, s.issued = some 0x0D#8 ∧ decode 0x0D#8 = .ok .stSynclowLead ∧
    isStageStep .stSynclowLead = true ∧ 0x0D#8 = decoderWord s :=
  ⟨{ inStage .synclow .lead 0 0 0 false with issued := some 0x0D#8 }, rfl, rfl, rfl, rfl⟩
theorem wit_StepRunsTheDecodedOperation_agenda : ∃ s : State, s.issued = none ∧ s.agenda = [.timer] ∧
    decode (Move.timer.word (decoderWord s)) = .ok .tick := ⟨{ State.reset with agenda := [.timer] }, rfl, rfl, rfl⟩
theorem wit_StepRunsTheDecodedOperation_free : State.reset.issued = none ∧ State.reset.agenda = [] ∧
    ∃ i, decode ((Config.nextMove State.reset.turn).word (decoderWord State.reset)) = .ok i := by
  refine ⟨rfl, rfl, ?_⟩
  generalize Config.nextMove State.reset.turn = m
  cases m with
  | drive v => cases v <;> exact ⟨_, rfl⟩
  | enable v => cases v <;> exact ⟨_, rfl⟩
  | _ => exact ⟨_, rfl⟩

theorem wit_StageAndPhaseSelectTheStep : ∃ s₁ s₂ : State, s₁.issued = none ∧ s₁.agenda = [.decoder] ∧
    decode (decoderWord s₁) = .ok .stRxTrail ∧ s₂.issued = none ∧ s₂.agenda = [.decoder] ∧
      decode (decoderWord s₂) = .error .reservedStagePair :=
  ⟨{ inPulse 0 1 false with agenda := [.decoder] }, { State.reset with phase := .reserved, agenda := [.decoder] },
    rfl, rfl, rfl, rfl, rfl, rfl⟩

theorem wit_ReservedWordsAreRefused : ∃ s₁ s₂ : State, s₁.issued = some 0xC0#8 ∧
    decode 0xC0#8 = .error .reservedClass ∧ s₂.issued = some 0x0D#8 ∧ decode 0x0D#8 = .ok .stSynclowLead ∧
      isStageStep .stSynclowLead = true ∧ 0x0D#8 ≠ decoderWord s₂ :=
  ⟨{ State.reset with issued := some 0xC0#8 }, { State.reset with issued := some 0x0D#8 }, rfl, rfl, rfl, rfl, rfl, by decide⟩

theorem wit_TickAdvancesTheCounter : beforeWrap.cnt = beforeWrap.par.period - 1 ∧
    ({ beforeWrap with cnt := 254 }).cnt ≠ beforeWrap.par.period - 1 := by decide
theorem wit_OverflowServiceCountsOnce : wrapPending.ie = true ∧ wrapPending.ovp = true := by decide
theorem wit_OverflowServiceNotEnabledDoesNothing : ({ wrapPending with ie := false }).ie = false ∧ beforeWrap.ovp = false := by
  decide
theorem wit_ClockCountsEveryTick : ∃ t, ({ beforeWrap with ie := true }).cnt < beforeWrap.par.period ∧
    Instr.hwReset ∉ [Instr.tick, .ovfService, .tick] ∧
    noOverflowLost [.tick, .ovfService, .tick] { beforeWrap with ie := true } = true ∧
    runOps [.tick, .ovfService, .tick] { beforeWrap with ie := true } = .next t :=
  ⟨_, by decide, by decide, by decide, rfl⟩
theorem wit_LostOverflowStepsTheClockBack : ({ beforeWrap with ovp := true }).par.wf = true ∧
    ({ beforeWrap with ovp := true }).cnt = beforeWrap.par.period - 1 ∧ ({ beforeWrap with ovp := true }).ovp = true := by decide
theorem wit_ClockRegistersAreTheClocksOwn :
    got (exec .tick beforeWrap) (fun t => t.cnt ≠ beforeWrap.cnt ∧ t.ovp ≠ beforeWrap.ovp) = some True ∧
      got (exec .ovfService wrapPending) (fun t => t.ovf ≠ wrapPending.ovf) = some True := by
  constructor <;> simp [got, exec, execTick, execOvfService, atWrap, serviceEnabled, beforeWrap, wrapPending, State.reset,
    State.resetWith, Config.Params.reference, Config.Params.period]

theorem wit_SensorDriveMovesTheLine : State.reset.gmode = .inputPullup ∧
    ({ State.reset with gmode := .outputLow }).gmode = .outputLow := by decide

/-- The three ways a wait has its operands: in progress, begun with an origin, begun without one. -/
theorem wit_WaitForLevelPollsOnce_operands :
    ({ clockAt 2100 with call := .waiting .low 100 2000 }).call = .waiting .low 100 2000 ∧
      (withArgs 100 (some 2000) (clockAt 2100)).call = .none ∧ (withArgs 100 (some 2000) (clockAt 2100)).args.origin = some 2000 ∧
      (withArgs 100 none (clockAt 2000)).args.origin = none ∧ 2000 = nowOf (withArgs 100 none (clockAt 2000)) :=
  ⟨rfl, rfl, rfl, rfl, rfl⟩
theorem wit_WaitForLevelPollsOnce_results : line (clockAt 2100) = .high ∧ 100 ≤ nowOf (clockAt 2100) - 2000 ∧
    nowOf (clockAt 2099) - 2000 < 100 ∧ line { clockAt 2040 with sens := true } = .low := by decide

theorem wit_MeasurePulseBegins : (withArgs 140 none (clockAt 1000)).call = .none ∧ line (clockAt 1000) ≠ .low ∧
    line (clockAt 1000) = .high ∧ (withArgs 140 none (clockAt 1000)).args.timeout ≠ 0 ∧
    (withArgs 0 none (clockAt 1000)).args.timeout = 0 := by decide

theorem wit_MeasurePulseChainsThreeWaits :
    ({ clockAt 1139 with call := .measuring .high 140 1000 .lead 1000 }).call = .measuring .high 140 1000 .lead 1000 ∧
      Phase.lead ≠ .reserved ∧ line (clockAt 1139) = .high ∧ line (clockAt 1139) ≠ Level.high.other ∧
      nowOf (clockAt 1139) - 1000 < 140 ∧ 140 ≤ nowOf (clockAt 1140) - 1000 ∧
      line { clockAt 1139 with sens := true } = Level.high.other := by decide

theorem wit_ReadingIsIntegerPlusFraction : ({ State.reset with resValid := true }).resValid = true ∧
    State.reset.resValid = false := by decide

theorem wit_GetReadingIsIgnoredWhileBusy : State.reset.busy = false ∧ (received 68).busy = true := by decide
theorem wit_IdleAcceptsACommand : State.reset.start = false ∧ ({ State.reset with start := true }).start = true := by decide

theorem wit_ResetStageWaitsForItsDuration : State.reset.par.wf = true ∧
    State.reset.par.resetLowUs ≤ (nowOf (inStage .reset .skip 18000 0 0 false) - 0).toNat ∧
    (nowOf (inStage .reset .skip 17999 0 0 false) - 0).toNat < State.reset.par.resetLowUs := by decide

/-- Elapsed 100 and 99 on a low line, and a high line: `SKIP`; the other levels: `LEAD`. -/
theorem wit_SynclowSkipPollsForHigh : line (clockAt 18100) = .high ∧ line (inStage .synclow .skip 18100 18000 0 true) = .low ∧
    100 ≤ (nowOf (inStage .synclow .skip 18100 18000 0 true) - 18000).toNat ∧
    (nowOf (inStage .synclow .skip 18099 18000 0 true) - 18000).toNat < 100 := by decide
theorem wit_SynclowLeadStampsThePulse : line (inStage .synclow .lead 18010 18000 0 true) = .low ∧
    line (inStage .synclow .lead 18100 18000 0 false) = .high ∧
    100 ≤ (nowOf (inStage .synclow .lead 18100 18000 0 false) - 18000).toNat ∧
    (nowOf (inStage .synclow .lead 18099 18000 0 false) - 18000).toNat < 100 := by decide
theorem wit_SynclowTrailTestsTheWidth : line (inStage .synclow .trail 18084 18000 18010 false) = .high ∧
    (nowOf (inStage .synclow .trail 18084 18000 18010 false) - 18010).toNat < 75 ∧
    75 ≤ (nowOf (inStage .synclow .trail 18085 18000 18010 false) - 18010).toNat ∧
    line (inStage .synclow .trail 18100 18000 18010 true) = .low ∧
    100 ≤ (nowOf (inStage .synclow .trail 18100 18000 18010 true) - 18000).toNat ∧
    (nowOf (inStage .synclow .trail 18099 18000 18010 true) - 18000).toNat < 100 := by decide
theorem wit_SynchighWaitsForLow : State.reset.par.wf = true ∧ line (inStage .synchigh .skip 18190 18090 0 true) = .low ∧
    line (inStage .synchigh .skip 18190 18090 0 false) = .high ∧
    State.reset.par.syncHighTimeoutUs ≤ (nowOf (inStage .synchigh .skip 18190 18090 0 false) - 18090).toNat ∧
    (nowOf (inStage .synchigh .skip 18189 18090 0 false) - 18090).toNat < State.reset.par.syncHighTimeoutUs := by decide
theorem wit_RxSkipPollsForLow : line (inStage .receivebits .skip 18310 18170 0 true) = .low ∧
    line (inStage .receivebits .skip 18310 18170 0 false) = .high ∧
    140 ≤ (nowOf (inStage .receivebits .skip 18310 18170 0 false) - 18170).toNat ∧
    (nowOf (inStage .receivebits .skip 18309 18170 0 false) - 18170).toNat < 140 := by decide
theorem wit_RxLeadStampsThePulse : line (inStage .receivebits .lead 18220 18170 0 false) = .high ∧
    line (inStage .receivebits .lead 18310 18170 0 true) = .low ∧
    140 ≤ (nowOf (inStage .receivebits .lead 18310 18170 0 true) - 18170).toNat ∧
    (nowOf (inStage .receivebits .lead 18309 18170 0 true) - 18170).toNat < 140 := by decide

theorem wit_RxTrailStoresTheBit_wait : line (inPulse 0 90 false) = .high ∧
    140 ≤ (nowOf (inPulse 0 90 false) - (inPulse 0 90 false).t0).toNat ∧
    (nowOf (inPulse 0 89 false) - (inPulse 0 89 false).t0).toNat < 140 := by decide
theorem wit_RxTrailStoresTheBit_end : line (inPulse 39 1 true) = .low ∧ nowOf (inPulse 0 0 true) = (inPulse 0 0 true).ts ∧
    nowOf (inPulse 39 1 true) ≠ (inPulse 39 1 true).ts ∧ (inPulse 39 1 true).bitIdx.toNat < 40 ∧
    Memory.wf (inPulse 39 1 true).frame = true ∧ 40 ≤ (inPulse 40 1 true).bitIdx.toNat := by decide

/-- Widths 0, 1, 60 and 61. -/
theorem wit_PulseWidthDecodesAsABit : line (inPulse 39 0 true) = .low ∧ (inPulse 39 0 true).bitIdx.toNat < 40 ∧
    Memory.wf (inPulse 39 0 true).frame = true ∧
    got (exec .stRxTrail (inPulse 39 0 true)) (fun t => t.sample.toNat) = some 0 ∧
    got (exec .stRxTrail (inPulse 39 1 true)) (fun t => t.sample.toNat) = some 1 ∧
    got (exec .stRxTrail (inPulse 39 60 true)) (fun t => t.sample.toNat) = some 60 ∧
    got (exec .stRxTrail (inPulse 39 61 true)) (fun t => t.sample.toNat) = some 61 := by decide

theorem wit_ValidateTestsTheChecksum : (68#8).toNat = (45 + 0 + 23 + 0) % 256 ∧ Memory.read (received 68).frame 4 = 68#8 ∧
    Memory.read (received 69).frame 4 = 69#8 ∧ (69#8).toNat ≠ (45 + 0 + 23 + 0) % 256 := by decide

/-! ### Legal states -/

/-- The acknowledgement stage at its limit. -/
theorem wit_inv_synclow : LegalState (inStage .synclow .trail 18100 18000 18010 true) := by constructor <;> decide
/-- The last bit's pulse. -/
theorem wit_inv_receiving : LegalState (inPulse 39 61 true) := by constructor <;> decide
/-- All bits received, the checksum not yet tested. -/
theorem wit_inv_received : LegalState (received 68) := by constructor <;> decide

/-- An attempt that failed, about to end. -/
def failed : State := { inStage .done .skip 18310 18170 0 true with resReason := .dataTimeout, bitIdx := 7 }

theorem wit_inv_failed : LegalState failed := by constructor <;> decide

theorem wit_FailWritesTheReasonAndGoesToDone : LegalState (received 69) ∧ (received 69).stage = .validate :=
  ⟨by constructor <;> decide, rfl⟩

/-- One change of the reason for every row of the table. -/
theorem wit_EachReasonHasItsOwnSteps :
    got (exec .stIdle { failed with stage := .idle, start := true }) (fun t => t.resReason) = some .unknown ∧
      failed.resReason ≠ .unknown ∧
      got (exec .stSynclowTrail (inStage .synclow .trail 18084 18000 18010 false)) (fun t => t.resReason) =
        some .syncTimeout1 ∧
      got (exec .stSynchigh (inStage .synchigh .skip 18190 18090 0 false)) (fun t => t.resReason) = some .syncTimeout2 ∧
      got (exec .stRxTrail (inPulse 0 90 false)) (fun t => t.resReason) = some .dataTimeout ∧
      got (exec .stValidate (received 69)) (fun t => t.resReason) = some .checksumMismatch := by decide

theorem wit_OnlyValidateSetsResValid : ({ State.reset with start := true }).start = true ∧ (received 68).resValid = false ∧
    got (exec .stValidate (received 68)) (fun t => t.resValid) = some true := by decide

theorem wit_StagesFollowOneAnother : (inPulse 39 61 true).issued = none ∧
    got (step { inPulse 39 61 true with agenda := [.decoder] }) (fun t => t.stage) = some .validate := by decide

theorem wit_NoOtherAgentDisturbsAnAttempt : (inPulse 39 61 true).issued = none ∧ (inPulse 39 61 true).busy = true ∧
    Move.command ≠ .decoder ∧ Move.command ≠ .reset ∧
    got (step { inPulse 39 61 true with agenda := [.command] }) (fun t => t.start) = some false := by decide

theorem wit_FrameStoreWriters : ¬ isRxStep .tick ∧ isRxStep .stRxTrail ∧ Runs .tick beforeWrap ∧
    Runs .stRxTrail (inPulse 39 61 true) ∧ (0 : Nat) ≠ byteOf (inPulse 39 61 true).bitIdx.toNat :=
  ⟨by simp [isRxStep], .inr (.inr rfl), ⟨_, rfl⟩, ⟨_, rfl⟩, by decide⟩

/-- One write of each of the seven registers. -/
theorem wit_FlagsAndPadHaveTheirWriters :
    got (exec (.setIe true) State.reset) (fun t => t.ie) = some true ∧
      got (exec (.sensorDrive true) State.reset) (fun t => t.sens) = some true ∧
      got (exec .getReading State.reset) (fun t => t.start) = some true ∧
      got (exec .setOutputLow State.reset) (fun t => t.gmode) = some .outputLow ∧
      got (exec .stDone failed) (fun t => (t.busy, t.donef)) = some (false, true) ∧ failed.busy = true ∧ failed.donef = false ∧
      got (exec .stRxTrail (inPulse 39 61 true)) (fun t => t.bitIdx.toNat) = some 40 := by decide

theorem wit_BitsArePackedMsbFirst : Memory.wf (frameWith 68) = true ∧ 0 < 40 ∧ 39 < 40 ∧
    ((0 : Nat) ≠ 39 / 8 ∨ (7 : Nat) ≠ 7 - 39 % 8) := by decide
theorem wit_FortyBitsAreTheFrame : Memory.wf (frameWith 68) = true := by decide
theorem wit_BitStoreKeepsCanonicalForm : Memory.wf (frameWith 68) = true ∧
    storeBit (frameWith 68) 0 true = some [(0, 173#8), (2, 23#8), (4, 68#8)] ∧
    Memory.wf [(0, 173#8), (2, 23#8), (4, 68#8)] = true := by decide

theorem wit_InvariantHoldsAtReset : Config.Params.reference.wf = true ∧
    ({ Config.Params.reference with counterBits := 16, syncHighTimeoutUs := 5000 }).wf = true := by decide
theorem wit_EveryStepKeepsTheInvariant : LegalState { received 68 with agenda := [.decoder] } ∧
    ∃ t, step { received 68 with agenda := [.decoder] } = .next t := ⟨by constructor <;> decide, ⟨_, rfl⟩⟩
theorem wit_NoLegalStateStops : LegalState { inPulse 39 61 true with agenda := [.decoder] } := by constructor <;> decide
theorem wit_CompletedAttemptsHaveAResult : LegalState { failed with agenda := [.decoder] } ∧
    got (step { failed with agenda := [.decoder] }) (fun t => ((portsOf t).done, (portsOf t).resValid)) = some (true, false) :=
  ⟨by constructor <;> decide, by decide⟩

/-- Two states after reset that differ in all three registers, with a command to take. -/
theorem wit_UnspecifiedRegistersAreNeverRead : SameButUnread { State.reset with start := true, agenda := [.decoder] }
      { State.reset with start := true, agenda := [.decoder], t0 := 5, ts := 6, sample := 7 } ∧
    ∃ t, step { State.reset with start := true, agenda := [.decoder] } = .next t :=
  ⟨⟨rfl, by decide, by decide⟩, ⟨_, rfl⟩⟩

/-- A stage at its limit, one short of it, and the end of an attempt. -/
theorem wit_AttemptsAdvanceWithinTheirBudgets :
    LegalState { inStage .synclow .trail 18100 18000 18010 true with agenda := [.decoder] } ∧
      stageLimit (inStage .synclow .trail 18100 18000 18010 true) ≤ elapsed (inStage .synclow .trail 18100 18000 18010 true) ∧
      elapsed (inStage .synclow .trail 18099 18000 18010 true) < stageLimit (inStage .synclow .trail 18099 18000 18010 true) ∧
      LegalState { failed with agenda := [.decoder] } :=
  ⟨by constructor <;> decide, by decide, by decide, by constructor <;> decide⟩

theorem wit_ReferenceTickAdvancesTheClock : LegalState wrapPending ∧ wrapPending.ie = true ∧ State.reset.ovp = false :=
  ⟨by constructor <;> decide, rfl, rfl⟩

/-! An attempt under any schedule: the DECODER, the IRQ and the TIMER in turn, for ever. -/

/-- DECODER, IRQ, TIMER, DECODER, … -/
def roundRobin (n : Nat) : Move := if n % 3 = 0 then .decoder else if n % 3 = 1 then .irq else .timer

/-- The last bit's pulse, the overflow service enabled. -/
def served : State := { inPulse 39 61 true with ie := true }

/-- Along the round robin the service stays enabled, and none is pending when the TIMER moves. -/
theorem roundRobin_served : ∀ n t, runSchedule roundRobin 0 n served = .next t →
    t.issued = none ∧ t.ie = true ∧ (n % 3 = 2 → t.ovp = false) := by
  intro n
  induction n with
  | zero => intro t h; cases h; decide
  | succ n ih =>
    intro t h
    rw [runSchedule_succ, Nat.zero_add] at h
    cases hr : runSchedule roundRobin 0 n served with
    | fault r => rw [hr] at h; cases h
    | refused r => rw [hr] at h; cases h
    | next u =>
      rw [hr, andThen_next] at h
      obtain ⟨hi, hie, -⟩ := ih u hr
      obtain ⟨i, hd, he⟩ := moveNow_next hi h
      rcases (by omega : n % 3 = 0 ∨ n % 3 = 1 ∨ n % 3 = 2) with hn | hn | hn
      · have hs : isStageStep i = true := decoderWord_isStageStep (s := u) (by simpa [roundRobin, hn, Move.word] using hd)
        have hk : t.issued = u.issued ∧ t.ie = u.ie := by
          cases exec_effect he <;> first | exact ⟨rfl, rfl⟩ | (simp [isStageStep] at hs)
        exact ⟨hk.1.trans hi, hk.2.trans hie, by omega⟩
      · rw [show roundRobin n = .irq by simp [roundRobin, hn]] at hd
        cases hd.symm.trans (show decode (encode .ovfService) = .ok .ovfService by rfl)
        simp only [exec, execOvfService] at he
        split at he <;> rename_i hs <;> cases he
        · exact ⟨hi, hie, fun _ => rfl⟩
        · exact ⟨hi, hie, fun _ => by simpa [serviceEnabled, hie] using hs⟩
      · rw [show roundRobin n = .timer by simp [roundRobin, hn]] at hd
        cases hd.symm.trans (show decode (encode .tick) = .ok .tick by rfl)
        simp only [exec, execTick] at he
        split at he <;> cases he <;> exact ⟨hi, hie, by omega⟩

theorem roundRobin_lag : LagAtMost 1 roundRobin := by
  intro a b h
  by_cases hb : b ≤ a + 2
  · exfalso
    rcases (by omega : b - a = 0 ∨ b - a = 1 ∨ b - a = 2) with hd | hd | hd <;>
      rcases (by omega : a % 3 = 0 ∨ a % 3 = 1 ∨ a % 3 = 2) with ha | ha | ha <;>
        simp [ticksBetween, hd, List.range'_succ, roundRobin, ha, Nat.add_mod] at h
  · exact ⟨a + (3 - a % 3) % 3, by omega, by omega, if_pos (by omega)⟩

/-- An idle block with a command at once, and an attempt in progress under a schedule that meets every premise. -/
theorem wit_EveryAttemptEnds_reference : LegalState { State.reset with ie := true } ∧ State.reset.par.usPerTick < 2 ^ 32 ∧
    State.reset.stage = .idle ∧ ({ State.reset with start := true }).start = true :=
  ⟨by constructor <;> decide, by decide, rfl, rfl⟩
theorem wit_EveryAttemptEnds_schedule : LegalState served ∧ served.busy = true ∧ FairSchedule roundRobin ∧
    LagAtMost 1 roundRobin ∧ (∀ n, roundRobin n ≠ .reset) ∧ NoOverflowLostAlong roundRobin served ∧
    served.par.resetLowUs + 1 * served.par.usPerTick ≤ 2 ^ 32 := by
  refine ⟨by constructor <;> decide, rfl, ⟨fun n => ⟨3 * n, by omega, if_pos (by omega)⟩, fun n => ⟨3 * n + 2, by omega, ?_⟩⟩,
    roundRobin_lag, fun n => ?_, fun n t ht hm => ?_, by decide⟩
  · simp [roundRobin, Nat.add_mod]
  · unfold roundRobin; split
    · simp
    · split <;> simp
  · have hn : n % 3 = 2 := by
      unfold roundRobin at hm
      split at hm
      · cases hm
      · split at hm
        · cases hm
        · omega
    simp [overflowLost, (roundRobin_served n t ht).2.2 hn]

theorem test_attemptBudget : attemptBudget Config.Params.reference = 23843 ∧
    attemptBudget { Config.Params.reference with syncHighTimeoutUs := 5000, resetLowUs := 20000 } = 30743 := by
  decide -- R184, R273

end Sys2Proof.Tests
end

section
/-! The tag `RES_VALID` of the result (R30): what it says of the reading, and which effects write it. -/

namespace Sys2Proof.Machine

/-! ### The tag and the reading -/

theorem readingOf_of_resValid {s : State} (h : s.resValid = true) :
    readingOf s = .valid (s.tmpI.toNat + fractionOf s.tmpF) (s.humI.toNat + fractionOf s.humF) :=
  if_pos h

theorem readingOf_of_not_resValid {s : State} (h : s.resValid = false) : readingOf s = .failed s.resReason :=
  if_neg (by simp [h])

theorem resValid_iff_readingOf_valid (s : State) :
    s.resValid = true ↔ ∃ temperature humidity, readingOf s = .valid temperature humidity := by
  constructor
  · exact fun h => ⟨_, _, readingOf_of_resValid h⟩
  · rintro ⟨temperature, humidity, hr⟩
    by_contra hv
    rw [readingOf_of_not_resValid (Bool.eq_false_iff.2 hv)] at hr
    cases hr

/-! ### The writers of the tag -/

theorem execStIdle_of_start {s : State} (h : s.start = true) : execStIdle s = .next (beginAttempt s) :=
  congrArg Host.Outcome.next (if_pos h)

/-- An effect keeps the tag, clears it at the start of an attempt or at reset, or sets it on a frame that matches. -/
theorem Effect.resValid_cases {i : Instr} {s t : State} (h : Effect i s t) :
    t.resValid = s.resValid ∨
      ((i = .stIdle ∧ s.start = true ∨ i = .hwReset) ∧ t.resValid = false) ∨
      (i = .stValidate ∧ frameValid s.frame = true ∧ t.resValid = true) := by
  cases h with
  | idleBegin hstart => exact .inr (.inl ⟨.inl ⟨rfl, hstart⟩, beginAttempt_resValid s⟩)
  | reset a b c => exact .inr (.inl ⟨.inr rfl, rfl⟩)
  | valid hframe => exact .inr (.inr ⟨rfl, hframe, publishFrame_resValid s⟩)
  | _ => exact .inl rfl

/-- Only `ST_VALIDATE` on a matching checksum takes the tag from 0 to 1 (R30). -/
theorem Effect.of_resValid_rises {i : Instr} {s t : State} (h : Effect i s t) (hs : s.resValid = false)
    (ht : t.resValid = true) : i = .stValidate ∧ frameValid s.frame = true := by
  rcases h.resValid_cases with hkept | ⟨-, hcleared⟩ | ⟨hi, hframe, -⟩
  · simp [hkept, hs] at ht
  · simp [hcleared] at ht
  · exact ⟨hi, hframe⟩

/-- Settles O43: the tag as the readings' constructor, its clearing by `beginAttempt`, and the effects that write it. -/
theorem onlyValidateSetsResValid : Obligations.OnlyValidateSetsResValid :=
  ⟨resValid_iff_readingOf_valid,
    fun s hstart => ⟨beginAttempt s, execStIdle_of_start hstart, beginAttempt_resValid s⟩,
    fun _ _ _ hexec hs ht => (exec_effect hexec).of_resValid_rises hs ht⟩

end Sys2Proof.Machine
end

section
/-! The bit store of the frame (R61), bit by bit: where it succeeds, and what every bit of every byte reads afterwards. -/

namespace Sys2Proof.Machine

theorem bitOfByte_lt (i : Nat) : bitOfByte i < 8 := by
  unfold bitOfByte; omega

theorem storeBit_of_lt (m : Memory) {i : Nat} (v : Bool) (hi : i < 40) :
    storeBit m i v = some (Memory.write m (byteOf i) (setBit (Memory.read m (byteOf i)) (bitOfByte i) v)) := by
  obtain ⟨-, hstore⟩ | ⟨hle, -⟩ := storeBit_cases m i v
  · exact hstore
  · omega

/-- Read after the bit store, as one equation: the bit stored is at its place, every other bit of every byte is kept. -/
theorem getLsbD_read_storeBit {m m' : Memory} {i : Nat} {v : Bool} (hwf : Memory.wf m = true)
    (hstore : storeBit m i v = some m') (a : Nat) {k : Nat} (hk : k < 8) :
    (Memory.read m' a).getLsbD k =
      if a = byteOf i ∧ k = bitOfByte i then v else (Memory.read m a).getLsbD k := by
  by_cases ha : a = byteOf i
  · subst ha
    rw [storeBit_of_lt m v (storeBit_lt hstore)] at hstore
    cases hstore
    rw [Memory.read_write_same hwf, getLsbD_setBit _ _ _ _ (bitOfByte_lt i) hk]
    simp
  · simp [storeBit_other hstore ha, ha]

/-- Settles O48: `getLsbD_read_storeBit` at the place of bit `i`, and at every other place. -/
theorem bitsArePackedMsbFirst : Obligations.BitsArePackedMsbFirst := by
  intro m i v hwf hi
  have hstore := storeBit_of_lt m v hi
  refine ⟨_, hstore, ?stored, ?others⟩
  case stored => exact (getLsbD_read_storeBit hwf hstore (byteOf i) (bitOfByte_lt i)).trans (if_pos ⟨rfl, rfl⟩)
  case others =>
    intro a k hk hne
    exact (getLsbD_read_storeBit hwf hstore a hk).trans (if_neg (not_and_or.2 hne))

end Sys2Proof.Machine
end

section
/-! The frame in reception order (R81): what each of its bits reads after one bit is stored and after a run of bits is
received, and the 40-bit number its bytes spell. -/

namespace Sys2Proof.Machine

/-! ### One bit stored -/

/-- No two bits of the frame share a place (R61). -/
theorem byteOf_eq_and_bitOfByte_eq_iff {i j : Nat} : byteOf j = byteOf i ∧ bitOfByte j = bitOfByte i ↔ j = i := by
  unfold byteOf bitOfByte; omega

theorem wf_storeBit {m m' : Memory} {i : Nat} {v : Bool} (hwf : Memory.wf m = true) (hstore : storeBit m i v = some m') :
    Memory.wf m' = true := by
  have hi := storeBit_lt hstore
  have hbyte : byteOf i < Memory.size := show i / 8 < 5 by omega
  rw [storeBit_of_lt m v hi] at hstore
  cases hstore
  exact Memory.wf_write _ hwf hbyte

theorem frameBit_storeBit {m m' : Memory} {i : Nat} {v : Bool} (hwf : Memory.wf m = true)
    (hstore : storeBit m i v = some m') (j : Nat) : frameBit m' j = if j = i then v else frameBit m j := by
  unfold frameBit
  simp only [getLsbD_read_storeBit hwf hstore (byteOf j) (bitOfByte_lt j), byteOf_eq_and_bitOfByte_eq_iff]

/-! ### A run of bits received -/

@[simp] theorem receiveBits_nil (i : Nat) (m : Memory) : receiveBits i [] m = some m := rfl

theorem receiveBits_cons_of_storeBit {m m' : Memory} {i : Nat} {b : Bool} (hstore : storeBit m i b = some m')
    (bs : List Bool) : receiveBits i (b :: bs) m = receiveBits (i + 1) bs m' := by
  simp only [receiveBits, hstore]

/-- Bits received from number `i` on that fit the frame are stored there in order, and every other bit is kept. -/
theorem exists_receiveBits (bs : List Bool) {i : Nat} {m : Memory} (hwf : Memory.wf m = true)
    (hfit : i + bs.length ≤ 40) :
    ∃ m', receiveBits i bs m = some m' ∧
      ∀ j, frameBit m' j = if j < i then frameBit m j else bs.getD (j - i) (frameBit m j) := by
  induction bs generalizing i m with
  | nil => exact ⟨m, receiveBits_nil i m, by simp⟩
  | cons b bs ih =>
    rw [List.length_cons] at hfit
    have hstore := storeBit_of_lt m b (show i < 40 by omega)
    obtain ⟨m', hreceive, hbits⟩ := ih (wf_storeBit hwf hstore) (show i + 1 + bs.length ≤ 40 by omega)
    refine ⟨m', (receiveBits_cons_of_storeBit hstore bs).trans hreceive, fun j => ?_⟩
    rw [hbits, frameBit_storeBit hwf hstore]
    obtain hbelow | hstored | hlater := Nat.lt_trichotomy j i
    · rw [if_pos (by omega), if_neg (by omega), if_pos hbelow]
    · simp [hstored]
    · have hsub : j - i = j - (i + 1) + 1 := by omega
      rw [if_neg (by omega), if_neg (by omega), if_neg (by omega), hsub, List.getD_cons_succ]

/-! ### The frame as a number -/

theorem frameBit_eq_getMsbD (m : Memory) (i : Nat) :
    frameBit m i = (Memory.read m (i / 8)).getMsbD (i % 8) := by
  simp [frameBit, byteOf, bitOfByte, BitVec.getMsbD_eq_getLsbD, Nat.mod_lt]

/-- Bit number `i` in reception order is bit 39 − `i` of the frame's number (R81). -/
theorem getMsbD_frameWord (m : Memory) {i : Nat} (hi : i < 40) : (frameWord m).getMsbD i = frameBit m i := by
  have hplace : ∀ k, 8 * k ≤ i → i < 8 * k + 8 → (Memory.read m k).getMsbD (i - 8 * k) = frameBit m i := by
    intro k hlo hhi
    rw [frameBit_eq_getMsbD, show i / 8 = k by omega, show i % 8 = i - 8 * k by omega]
  simp only [frameWord, BitVec.getMsbD_append]
  split_ifs
  · exact hplace 4 (by omega) (by omega)
  · exact hplace 3 (by omega) (by omega)
  · exact hplace 2 (by omega) (by omega)
  · exact hplace 1 (by omega) (by omega)
  · exact hplace 0 (by omega) (by omega)

/-- Settles O49: each of the forty bits received is the bit of the number at its place, so the number is the one sent. -/
theorem fortyBitsAreTheFrame : Obligations.FortyBitsAreTheFrame := by
  intro w m hwf
  obtain ⟨m', hreceive, hbits⟩ :=
    exists_receiveBits ((List.range 40).map fun i => w.getMsbD i) (i := 0) hwf (by simp)
  refine ⟨m', hreceive, BitVec.eq_of_getMsbD_eq fun i hi => ?_⟩
  rw [getMsbD_frameWord m' hi, hbits]
  simp [hi]

end Sys2Proof.Machine
end

section
/-! The end of a cell's measurement (R86, R176, R177): the width taken and the bit it decodes as. -/

namespace Sys2Proof.Machine

/-- With the line low the third wait of a bit ends, and the width is the time since the stamp (R176). -/
theorem exec_stRxTrail_of_low {s : State} (hline : line s = .low) : exec .stRxTrail s = rxDone (nowOf s - s.ts) s := by
  show rxStep .trail s = _
  simp [rxStep, rxPulse, pulseStep, poll_hit, hline, Level.other]

theorem bitOf_of_le {w : Time} (h : w.toNat ≤ 60) : bitOf w = false :=
  decide_eq_false (show ¬ (60#32 < w) by bv_omega)

theorem bitOf_of_gt {w : Time} (h : 61 ≤ w.toNat) : bitOf w = true :=
  decide_eq_true (show 60#32 < w by bv_omega)

/-- Settles O38: `rxDone` on the width taken, either the failure or the bit `bitOf` the width stored at `BITIDX`. -/
theorem pulseWidthDecodesAsABit : Obligations.PulseWidthDecodesAsABit := by
  intro s hline hidx hwf
  rw [exec_stRxTrail_of_low hline]
  obtain ⟨hw, hdone⟩ | ⟨hw, -, m, hstore, hdone⟩ | ⟨-, hfull, -⟩ := rxDone_cases (nowOf s - s.ts) s
  case inl =>
    refine ⟨_, hdone, hw.symm, fun _ => ⟨rfl, rfl, rfl, fun _ _ => rfl⟩, ?_, ?_⟩ <;> simp
  case inr.inl =>
    have hbit : frameBit m s.bitIdx.toNat = bitOf (nowOf s - s.ts) :=
      (frameBit_storeBit hwf hstore _).trans (if_pos rfl)
    refine ⟨_, hdone, rfl, fun hzero => ?_, fun _ hle => ?_, fun hgt => ?_⟩
    · exact absurd (BitVec.eq_of_toNat_eq hzero) hw
    · exact hbit.trans (bitOf_of_le hle)
    · exact hbit.trans (bitOf_of_gt hgt)
  case inr.inr => omega

end Sys2Proof.Machine
end

section
/-! The clock (R110, R118): the two outcomes of a tick, and which operations write `CNT`, `OVF` and `OVP`. -/

namespace Sys2Proof.Machine

/-! ### The tick -/

theorem atWrap_iff (s : State) : atWrap s = true ↔ s.cnt = s.par.period - 1 := beq_iff_eq

theorem exec_tick_of_wraps {s : State} (h : s.cnt = s.par.period - 1) :
    exec .tick s = .next { s with cnt := 0, ovp := true } :=
  congrArg Host.Outcome.next (if_pos ((atWrap_iff s).2 h))

theorem exec_tick_of_counts {s : State} (h : s.cnt ≠ s.par.period - 1) :
    exec .tick s = .next { s with cnt := s.cnt + 1 } :=
  congrArg Host.Outcome.next (if_neg (mt (atWrap_iff s).1 h))

/-- Settles O7: the word, the count of one, and the two outcomes of a tick. -/
theorem tickAdvancesTheCounter : Obligations.TickAdvancesTheCounter :=
  ⟨rfl, rfl, fun _ => ⟨exec_tick_of_wraps, exec_tick_of_counts⟩⟩

/-! ### The writers of the clock's registers -/

/-- An effect keeps the three registers of the clock, or it is a tick, which keeps `OVF`, or a service, which keeps `CNT`, or
the reset. -/
theorem Effect.clock_cases {i : Instr} {s t : State} (h : Effect i s t) :
    (t.cnt = s.cnt ∧ t.ovf = s.ovf ∧ t.ovp = s.ovp) ∨
      (i = .tick ∧ t.ovf = s.ovf) ∨ (i = .ovfService ∧ t.cnt = s.cnt) ∨ i = .hwReset := by
  cases h with
  | tickWrap | tickOn => exact .inr (.inl ⟨rfl, rfl⟩)
  | service => exact .inr (.inr (.inl ⟨rfl, rfl⟩))
  | reset => exact .inr (.inr (.inr rfl))
  | _ => exact .inl ⟨rfl, rfl, rfl⟩

/-- Settles O14: each case of `Effect.clock_cases` names the writer or keeps the register. -/
theorem clockRegistersAreTheClocksOwn : Obligations.ClockRegistersAreTheClocksOwn := by
  intro i s t hexec
  obtain ⟨hcnt, hovf, hovp⟩ | ⟨rfl, hovf⟩ | ⟨rfl, hcnt⟩ | rfl := (exec_effect hexec).clock_cases
  · simp [hcnt, hovf, hovp]
  · simp [hovf]
  · simp [hcnt]
  · simp

end Sys2Proof.Machine
end

section
/-! The measuring steps in the phases `SKIP` and `LEAD` (R169, R170, R174, R175): the level waited for moves the measurement
on, any other level fails the attempt at the stage's limit and changes nothing before it. -/

namespace Sys2Proof.Machine

/-! ### One measurement step, outcome by outcome (R149) -/

theorem pulseStep_of_match {lv l : Level} {ph : Phase} (limit t0 ts t : Time) (hph : ph ≠ .reserved)
    (hl : l = wantedLevel lv ph) : pulseStep lv limit ph t0 ts l t = onMatch ts t ph := by
  obtain ⟨-, hstep⟩ | ⟨hne, -⟩ | ⟨hne, -⟩ := pulseStep_cases (lv := lv) (l := l) limit hph t0 ts t
  · exact hstep
  · exact absurd hl hne
  · exact absurd hl hne

theorem pulseStep_of_timeout {lv l : Level} {limit t0 t : Time} {ph : Phase} (ts : Time) (hph : ph ≠ .reserved)
    (hl : l = (wantedLevel lv ph).other) (ht : limit ≤ t - t0) : pulseStep lv limit ph t0 ts l t = .done 0 := by
  obtain ⟨heq, -⟩ | ⟨-, -, hstep⟩ | ⟨-, hlt, -⟩ := pulseStep_cases (lv := lv) (l := l) limit hph t0 ts t
  · exact absurd heq ((level_ne_iff _ _).2 hl)
  · exact hstep
  · exact absurd hlt (BitVec.not_lt.2 ht)

theorem pulseStep_of_pending {lv l : Level} {limit t0 t : Time} {ph : Phase} (ts : Time) (hph : ph ≠ .reserved)
    (hl : l = (wantedLevel lv ph).other) (ht : t - t0 < limit) : pulseStep lv limit ph t0 ts l t = .wait := by
  obtain ⟨heq, -⟩ | ⟨-, hle, -⟩ | ⟨-, -, hstep⟩ := pulseStep_cases (lv := lv) (l := l) limit hph t0 ts t
  · exact absurd heq ((level_ne_iff _ _).2 hl)
  · exact absurd ht (BitVec.not_lt.2 hle)
  · exact hstep

/-! ### `SYNCLOW`: level `Low`, timeout 100 (R172) -/

theorem synclowStep_skip_of_high {s : State} (hline : line s = .high) :
    synclowStep .skip s = .next { s with phase := .lead } := by
  have hpulse : synclowPulse .skip s = .lead := pulseStep_of_match _ _ _ _ (by decide) hline
  rw [synclowStep, hpulse]

theorem synclowStep_lead_of_low {s : State} (hline : line s = .low) :
    synclowStep .lead s = .next { s with ts := nowOf s, phase := .trail } := by
  have hpulse : synclowPulse .lead s = .trail (nowOf s) := pulseStep_of_match _ _ _ _ (by decide) hline
  rw [synclowStep, hpulse]

/-- A timeout ends the measurement with sample 0, which the width test fails (R172). -/
theorem synclowStep_of_timeout {ph : Phase} {s : State} (hph : ph ≠ .reserved)
    (hline : line s = (wantedLevel .low ph).other) (ht : 100 ≤ (nowOf s - s.t0).toNat) :
    synclowStep ph s = .next { s with sample := 0, resReason := .syncTimeout1, stage := .done, phase := .skip } := by
  have hpulse : synclowPulse ph s = .done 0 := pulseStep_of_timeout _ hph hline ht
  rw [synclowStep, hpulse]
  rfl

theorem synclowStep_of_pending {ph : Phase} {s : State} (hph : ph ≠ .reserved)
    (hline : line s = (wantedLevel .low ph).other) (ht : (nowOf s - s.t0).toNat < 100) : synclowStep ph s = .next s := by
  have hpulse : synclowPulse ph s = .wait := pulseStep_of_pending _ hph hline ht
  rw [synclowStep, hpulse]

/-- Settles O31: the word, and the three outcomes of `synclowStep` in phase `SKIP`, which waits for high. -/
theorem synclowSkipPollsForHigh : Obligations.SynclowSkipPollsForHigh :=
  ⟨rfl, fun _ => ⟨synclowStep_skip_of_high, synclowStep_of_timeout (ph := .skip) (by decide),
    synclowStep_of_pending (ph := .skip) (by decide)⟩⟩

/-- Settles O32: the word, and the three outcomes of `synclowStep` in phase `LEAD`, which waits for low. -/
theorem synclowLeadStampsThePulse : Obligations.SynclowLeadStampsThePulse :=
  ⟨rfl, fun _ => ⟨synclowStep_lead_of_low, synclowStep_of_timeout (ph := .lead) (by decide),
    synclowStep_of_pending (ph := .lead) (by decide)⟩⟩

/-! ### `RECEIVEBITS`: level `High`, timeout 140 (R177) -/

theorem rxStep_skip_of_low {s : State} (hline : line s = .low) :
    rxStep .skip s = .next { s with phase := .lead } := by
  have hpulse : rxPulse .skip s = .lead := pulseStep_of_match _ _ _ _ (by decide) hline
  rw [rxStep, hpulse]

theorem rxStep_lead_of_high {s : State} (hline : line s = .high) :
    rxStep .lead s = .next { s with ts := nowOf s, phase := .trail } := by
  have hpulse : rxPulse .lead s = .trail (nowOf s) := pulseStep_of_match _ _ _ _ (by decide) hline
  rw [rxStep, hpulse]

/-- A timeout ends the measurement with sample 0, which is no bit (R177). -/
theorem rxStep_of_timeout {ph : Phase} {s : State} (hph : ph ≠ .reserved)
    (hline : line s = (wantedLevel .high ph).other) (ht : 140 ≤ (nowOf s - s.t0).toNat) :
    rxStep ph s = .next { s with sample := 0, resReason := .dataTimeout, stage := .done, phase := .skip } := by
  have hpulse : rxPulse ph s = .done 0 := pulseStep_of_timeout _ hph hline ht
  rw [rxStep, hpulse]
  rfl

theorem rxStep_of_pending {ph : Phase} {s : State} (hph : ph ≠ .reserved)
    (hline : line s = (wantedLevel .high ph).other) (ht : (nowOf s - s.t0).toNat < 140) : rxStep ph s = .next s := by
  have hpulse : rxPulse ph s = .wait := pulseStep_of_pending _ hph hline ht
  rw [rxStep, hpulse]

/-- Settles O35: the word, and the three outcomes of `rxStep` in phase `SKIP`, which waits for low. -/
theorem rxSkipPollsForLow : Obligations.RxSkipPollsForLow :=
  ⟨rfl, fun _ => ⟨rxStep_skip_of_low, rxStep_of_timeout (ph := .skip) (by decide),
    rxStep_of_pending (ph := .skip) (by decide)⟩⟩

/-- Settles O36: the word, and the three outcomes of `rxStep` in phase `LEAD`, which waits for high. -/
theorem rxLeadStampsThePulse : Obligations.RxLeadStampsThePulse :=
  ⟨rfl, fun _ => ⟨rxStep_lead_of_high, rxStep_of_timeout (ph := .lead) (by decide),
    rxStep_of_pending (ph := .lead) (by decide)⟩⟩

end Sys2Proof.Machine
end

section
/-! `ST_VALIDATE` (R178): the validity predicate of a frame (R203) in numbers, and the two outcomes it decides between. -/

namespace Sys2Proof.Machine

theorem toNat_checksumOf (b0 b1 b2 b3 : Byte) :
    (checksumOf b0 b1 b2 b3).toNat = (b0.toNat + b1.toNat + b2.toNat + b3.toNat) % 256 := by
  simp [checksumOf]

/-- R203: byte 4 of a valid frame is the sum of the four value bytes mod 256. -/
theorem frameValid_iff (m : Memory) :
    frameValid m = true ↔ (Memory.read m 4).toNat =
      ((Memory.read m 0).toNat + (Memory.read m 1).toNat + (Memory.read m 2).toNat + (Memory.read m 3).toNat) % 256 := by
  rw [frameValid, beq_iff_eq, frameChecksum, ← BitVec.toNat_inj, toNat_checksumOf, eq_comm]

theorem exec_stValidate_of_valid {s : State} (h : frameValid s.frame = true) :
    exec .stValidate s = .next (publishFrame s) :=
  congrArg Host.Outcome.next (if_pos h)

theorem exec_stValidate_of_invalid {s : State} (h : ¬ frameValid s.frame = true) :
    exec .stValidate s = .next (failWith .checksumMismatch s) :=
  congrArg Host.Outcome.next (if_neg h)

/-- Settles O39: the word, and the two outcomes with the validity predicate put in numbers by `frameValid_iff`. -/
theorem validateTestsTheChecksum : Obligations.ValidateTestsTheChecksum :=
  ⟨rfl, fun s => ⟨fun hsum => exec_stValidate_of_valid ((frameValid_iff s.frame).2 hsum),
    fun hsum => exec_stValidate_of_invalid (mt (frameValid_iff s.frame).1 hsum)⟩⟩

end Sys2Proof.Machine
end

section
/-! `CHECKSUM` (R202): the sum taken in full and then truncated is the sum with a carry dropped at every step. -/

namespace Sys2Proof.Machine

/-- Both sides denote the same residue mod 256: the sum truncated once, and the sum truncated at each addition. -/
theorem checksumOf_eq_add (b0 b1 b2 b3 : Byte) : checksumOf b0 b1 b2 b3 = b0 + b1 + b2 + b3 := by
  apply BitVec.eq_of_toNat_eq
  calc (checksumOf b0 b1 b2 b3).toNat
      = (b0.toNat + b1.toNat + b2.toNat + b3.toNat) % 256 := toNat_checksumOf b0 b1 b2 b3
    _ = (((b0.toNat + b1.toNat) % 256 + b2.toNat) % 256 + b3.toNat) % 256 := by omega
    _ = (b0 + b1 + b2 + b3).toNat := by simp only [BitVec.toNat_add, Nat.reducePow]

/-- Settles O23: the word, the sum truncated once (`toNat_checksumOf`), and the same sum truncated at every step. -/
theorem checksumIsTheSumModulo256 : Obligations.ChecksumIsTheSumModulo256 :=
  ⟨rfl, fun b0 b1 b2 b3 => ⟨toNat_checksumOf b0 b1 b2 b3, checksumOf_eq_add b0 b1 b2 b3⟩⟩

end Sys2Proof.Machine
end

section
/-! The failure entry (R223): what it writes, and what the invariant (R44) says of the pad and of the result in the stages
from which it is taken. -/

namespace Sys2Proof.Machine

/-! ### The pad and the result in a legal state -/

/-- R44 (d): only the start pulse drives the pad. -/
theorem LegalState.gmode_eq_inputPullup {s : State} (h : LegalState s) (hreset : s.stage ≠ .reset)
    (hrelease : s.stage ≠ .release) : s.gmode = .inputPullup := by
  cases hg : s.gmode with
  | inputPullup => rfl
  | outputLow => exact absurd (h.padIff.1 hg) (not_or.2 ⟨hreset, hrelease⟩)

/-- R182 with R44 (f): an attempt without a result shows no valid result, and no values. -/
theorem LegalState.result_clear_of_running {s : State} (h : LegalState s) (hrun : s.stage.running = true) :
    s.resValid = false ∧ s.humI = 0 ∧ s.humF = 0 ∧ s.tmpI = 0 ∧ s.tmpF = 0 :=
  have hinvalid : s.resValid = false := (h.noResultYet hrun).1
  ⟨hinvalid, h.failedZero hinvalid⟩

/-- The four stages that can fail come after the release of the pad and before the result. -/
theorem stage_of_canFail {st : Stage} (hst : st = .synclow ∨ st = .synchigh ∨ st = .receivebits ∨ st = .validate) :
    st ≠ .reset ∧ st ≠ .release ∧ st.running = true := by
  rcases hst with rfl | rfl | rfl | rfl <;> decide

/-! ### The failure entry -/

/-- `failWith` writes no register but the reason, the stage and the phase. -/
theorem failWith_restore (r : ReasonCode) (s : State) :
    { failWith r s with resReason := s.resReason, stage := s.stage, phase := s.phase } = s := rfl

/-- Settles O41: the three writes, the frame (`failWith_restore`), and the pad and the result from the invariant, which
`failWith` does not touch. -/
theorem failWritesTheReasonAndGoesToDone : Obligations.FailWritesTheReasonAndGoesToDone := by
  intro r s
  refine ⟨failWith_resReason r s, failWith_stage r s, failWith_phase r s, failWith_restore r s, fun hlegal hstage => ?_⟩
  obtain ⟨hreset, hrelease, hrun⟩ := stage_of_canFail hstage
  simp only [failWith_resValid, failWith_humI, failWith_humF, failWith_tmpI, failWith_tmpF]
  exact ⟨hlegal.gmode_eq_inputPullup hreset hrelease, hlegal.result_clear_of_running hrun⟩

end Sys2Proof.Machine
end

section
/-! Operation words (R92 to R96): a word is put together again from the fields the decoder reads, so decoding and encoding
undo each other, and the words without an operation are the reserved ones. -/

namespace Sys2Proof

/-! ### A word and its fields -/

/-- A word of class 1 or 2 is its class, its number and its operand bit (R94, R95). -/
theorem operandWord_fields {w : Byte} {cls : Nat} (hclass : opField w 6 2 = cls) (hlow : opField w 0 2 = 0) :
    operandWord cls (opField w 3 3) (w.getLsbD 2) = w := by
  subst hclass
  have hlow0 : w.getLsbD 0 = false ∧ w.getLsbD 1 = false := by
    have hz : w.extractLsb' 0 2 = 0#2 := BitVec.eq_of_toNat_eq hlow
    exact ⟨by simpa using congrArg (·.getLsbD 0) hz, by simpa using congrArg (·.getLsbD 1) hz⟩
  refine BitVec.eq_of_getLsbD_eq fun i hi => ?_
  simp only [operandWord, opField, BitVec.ofNat_toNat, BitVec.setWidth_eq, BitVec.getLsbD_append]
  interval_cases i <;> simp [-BitVec.getLsbD_eq_getElem, hlow0]

/-- A class 0 word with bit 5 clear is its stage and its phase (R93). -/
theorem stageWord_fields {w : Byte} (hclass : opField w 6 2 = 0) (hbit : w.getLsbD 5 = false) :
    stageWord (BitVec.ofNat 3 (opField w 2 3)) (BitVec.ofNat 2 (opField w 0 2)) = w := by
  have hhigh : w.getLsbD 6 = false ∧ w.getLsbD 7 = false := by
    have hz : w.extractLsb' 6 2 = 0#2 := BitVec.eq_of_toNat_eq hclass
    exact ⟨by simpa using congrArg (·.getLsbD 0) hz, by simpa using congrArg (·.getLsbD 1) hz⟩
  refine BitVec.eq_of_getLsbD_eq fun i hi => ?_
  simp only [stageWord, opField, BitVec.ofNat_toNat, BitVec.setWidth_eq, BitVec.getLsbD_append]
  interval_cases i <;> simp [-BitVec.getLsbD_eq_getElem, hhigh, hbit]

/-! ### Decoding one class -/

theorem encode_of_decodeStage {stage phase : Nat} {i : Instr} (h : decodeStage stage phase = .ok i) :
    encode i = stageWord (BitVec.ofNat 3 stage) (BitVec.ofNat 2 phase) := by
  unfold decodeStage at h
  split at h <;> cases h <;> rfl

theorem noOperand_eq_ok {bit : Bool} {i j : Instr} (h : noOperand bit i = .ok j) : bit = false ∧ j = i := by
  cases bit <;> cases h
  exact ⟨rfl, rfl⟩

theorem Level.code_ofBit (b : Bool) : (Level.ofBit b).code = b := by cases b <;> rfl

theorem encode_of_decodePrimitive {number : Nat} {bit : Bool} {i : Instr} (hn : number < 8)
    (h : decodePrimitive number bit = .ok i) : encode i = operandWord 1 number bit := by
  unfold decodePrimitive at h
  split at h
  case h_5 => cases h; exact congrArg (operandWord 1 4) (Level.code_ofBit bit)
  case h_6 => cases h; exact congrArg (operandWord 1 5) (Level.code_ofBit bit)
  case h_8 h0 h1 h2 h3 h4 h5 h6 =>
    obtain rfl : number = 7 := by
      simp only [imp_false] at h0 h1 h2 h3 h4 h5 h6
      omega
    obtain ⟨rfl, rfl⟩ := noOperand_eq_ok h
    rfl
  all_goals
    obtain ⟨rfl, rfl⟩ := noOperand_eq_ok h
    rfl

theorem encode_of_decodeEvent {number : Nat} {bit : Bool} {i : Instr} (h : decodeEvent number bit = .ok i) :
    encode i = operandWord 2 number bit := by
  unfold decodeEvent at h
  split at h
  case h_3 => cases h; rfl
  case h_6 => cases h; rfl
  case h_7 => cases h
  all_goals
    obtain ⟨rfl, rfl⟩ := noOperand_eq_ok h
    rfl

/-! ### The decoder and the encoder -/

theorem decode_encode (i : Instr) : decode (encode i) = .ok i := by
  cases i with
  | waitForLevel l => cases l <;> rfl
  | measurePulse l => cases l <;> rfl
  | sensorDrive v => cases v <;> rfl
  | setIe v => cases v <;> rfl
  | _ => rfl

theorem opField_lt (w : Byte) (lo len : Nat) : opField w lo len < 2 ^ len := (w.extractLsb' lo len).isLt

/-- The operation decoded has the word's own fields, class by class. -/
theorem encode_of_decode {w : Byte} {i : Instr} (h : decode w = .ok i) : encode i = w := by
  unfold decode at h
  split at h
  case h_1 hclass =>
    split_ifs at h with hbit
    exact (encode_of_decodeStage h).trans (stageWord_fields hclass (Bool.eq_false_iff.2 hbit))
  case h_2 hclass =>
    split_ifs at h with hlow
    rw [encode_of_decodePrimitive (opField_lt w 3 3) h]
    exact operandWord_fields hclass hlow
  case h_3 hclass =>
    split_ifs at h with hlow
    rw [encode_of_decodeEvent h]
    exact operandWord_fields hclass hlow
  case h_4 => cases h

/-- Settles O5: `encode_of_decode` one way, `decode_encode` the other. -/
theorem decodeIsTheInverseOfEncode : Obligations.DecodeIsTheInverseOfEncode :=
  fun _ i => ⟨encode_of_decode, fun h => h ▸ decode_encode i⟩

/-- Settles O4: each word is, bit for bit, the encoder's. -/
theorem knownWordsDecode : Obligations.KnownWordsDecode :=
  ⟨decode_encode .stSynclowLead, decode_encode .stRxTrail, decode_encode (.waitForLevel .high),
    decode_encode (.measurePulse .low), decode_encode (.sensorDrive true), decode_encode (.setIe true),
    decode_encode .now, decode_encode .hwReset⟩

/-! ### The reserved words -/

/-- No operation's word is reserved. -/
theorem wordWf_encode (i : Instr) : wordWf (encode i) = true := by
  cases i with
  | waitForLevel l => exact (Laws.EncodesUnreserved.waitForLevel l).2
  | measurePulse l => exact (Laws.EncodesUnreserved.measurePulse l).2
  | sensorDrive v => exact (Laws.EncodesUnreserved.sensorDrive v).2
  | setIe v => exact (Laws.EncodesUnreserved.setIe v).2
  | _ => decide

theorem decodeStage_isOk (stage : BitVec 3) (phase : BitVec 2)
    (h : (phase != 3#2 && (phase == 0#2 || stage == 3#3 || stage == 5#3)) = true) :
    (decodeStage stage.toNat phase.toNat).isOk = true := by
  decide +revert

theorem decodePrimitive_isOk (number : BitVec 3) (bit : Bool) (h : (!bit || (number == 4#3 || number == 5#3)) = true) :
    (decodePrimitive number.toNat bit).isOk = true := by
  decide +revert

theorem decodeEvent_isOk (number : BitVec 3) (bit : Bool) (h : (!bit || (number == 2#3 || number == 5#3)) = true)
    (hn : (number != 6#3 && number != 7#3) = true) : (decodeEvent number.toNat bit).isOk = true := by
  decide +revert

theorem exists_ok_of_isOk {x : Except DecodeError Instr} (h : x.isOk = true) : ∃ i, x = .ok i := by
  cases x with
  | ok i => exact ⟨i, rfl⟩
  | error e => cases h

/-- A word that no check of R96 (a) refuses has fields its class decodes. -/
theorem exists_decode_of_wordWf {w : Byte} (h : wordWf w = true) : ∃ i, decode w = .ok i := by
  simp only [wordWf, classOk, stageBitOk, stagePairOk, lowBitsOk, operandBitOk, eventOk, Bool.and_eq_true] at h
  obtain ⟨⟨⟨⟨⟨hclass, hstageBit⟩, hpair⟩, hlow⟩, hoperand⟩, hevent⟩ := h
  have hfield : ∀ c : BitVec 2, opField w 6 2 = c.toNat → w.extractLsb' 6 2 = c := fun c => BitVec.eq_of_toNat_eq
  have hzero : w.extractLsb' 0 2 = 0#2 → opField w 0 2 = 0 := fun h0 => congrArg BitVec.toNat h0
  apply exists_ok_of_isOk
  unfold decode
  split
  case h_1 h0 =>
    rw [hfield 0#2 h0] at hstageBit hpair
    rw [if_neg (by simpa using hstageBit)]
    exact decodeStage_isOk (w.extractLsb' 2 3) (w.extractLsb' 0 2) hpair
  case h_2 h1 =>
    rw [hfield 1#2 h1] at hlow hoperand
    rw [if_pos (hzero (beq_iff_eq.1 hlow))]
    exact decodePrimitive_isOk (w.extractLsb' 3 3) (w.getLsbD 2) (by simpa using hoperand)
  case h_3 h2 =>
    rw [hfield 2#2 h2] at hlow hoperand hevent
    rw [if_pos (hzero (beq_iff_eq.1 hlow))]
    exact decodeEvent_isOk (w.extractLsb' 3 3) (w.getLsbD 2) (by simpa using hoperand) hevent
  case h_4 h0 h1 h2 =>
    simp only [imp_false] at h0 h1 h2
    have hlt := opField_lt w 6 2
    rw [hfield 3#2 (show opField w 6 2 = 3 by omega)] at hclass
    cases hclass

/-- Settles O6: a word that decodes is its operation's own (`encode_of_decode`), which is not reserved; any other is refused by
one of the checks. -/
theorem decoderRefusesExactlyTheReservedWords : Obligations.DecoderRefusesExactlyTheReservedWords :=
  fun _ => ⟨fun ⟨i, h⟩ => encode_of_decode h ▸ wordWf_encode i, exists_decode_of_wordWf⟩

end Sys2Proof
end

section
/-! The step (R185; logs 5 and 6): which operation the next word names, for an issued word and for the move of an agent, and
the state the operation then runs on. -/

namespace Sys2Proof.Machine

/-! ### Which operation a move is -/

/-- The stage step (`STAGE`, `PHASE`) select (R93, R185). -/
inductive OwnStep (s : State) : Instr → Prop where
  | idle (hs : s.stage = .idle) (hp : s.phase = .skip) : OwnStep s .stIdle
  | reset (hs : s.stage = .reset) (hp : s.phase = .skip) : OwnStep s .stReset
  | release (hs : s.stage = .release) (hp : s.phase = .skip) : OwnStep s .stRelease
  | synclowSkip (hs : s.stage = .synclow) (hp : s.phase = .skip) : OwnStep s .stSynclowSkip
  | synclowLead (hs : s.stage = .synclow) (hp : s.phase = .lead) : OwnStep s .stSynclowLead
  | synclowTrail (hs : s.stage = .synclow) (hp : s.phase = .trail) : OwnStep s .stSynclowTrail
  | synchigh (hs : s.stage = .synchigh) (hp : s.phase = .skip) : OwnStep s .stSynchigh
  | rxSkip (hs : s.stage = .receivebits) (hp : s.phase = .skip) : OwnStep s .stRxSkip
  | rxLead (hs : s.stage = .receivebits) (hp : s.phase = .lead) : OwnStep s .stRxLead
  | rxTrail (hs : s.stage = .receivebits) (hp : s.phase = .trail) : OwnStep s .stRxTrail
  | validate (hs : s.stage = .validate) (hp : s.phase = .skip) : OwnStep s .stValidate
  | done (hs : s.stage = .done) (hp : s.phase = .skip) : OwnStep s .stDone

theorem decode_decoderWord_iff {s : State} {i : Instr} : decode (decoderWord s) = .ok i ↔ OwnStep s i := by
  unfold decoderWord
  constructor
  · intro h
    cases hs : s.stage <;> cases hp : s.phase <;> rw [hs, hp] at h <;> cases h
    exacts [.idle hs hp, .reset hs hp, .release hs hp, .synclowSkip hs hp, .synclowLead hs hp, .synclowTrail hs hp,
      .synchigh hs hp, .rxSkip hs hp, .rxLead hs hp, .rxTrail hs hp, .validate hs hp, .done hs hp]
  · intro h
    cases h with | _ hs hp => rw [hs, hp]; rfl

/-- R96 (b): the pairs that select no step. -/
theorem decode_decoderWord_error_iff (s : State) : (∃ e, decode (decoderWord s) = .error e) ↔
    s.phase = .reserved ∨ (s.phase ≠ .skip ∧ s.stage ≠ .synclow ∧ s.stage ≠ .receivebits) := by
  have hpairs : ∀ st ph, (decode (stageWord (Stage.code st) (Phase.code ph))).isOk = false ↔
      ph = .reserved ∨ (ph ≠ .skip ∧ st ≠ .synclow ∧ st ≠ .receivebits) := by
    intro st ph
    cases st <;> cases ph <;> decide
  rw [← hpairs, decoderWord]
  cases decode (stageWord s.stage.code s.phase.code) with
  | ok i => simp [Except.isOk, Except.toBool]
  | error e => simp [Except.isOk, Except.toBool]

/-- The operation of an agent's move: the event of its word, or the DECODER's own step (R67, R95). -/
inductive MoveOp (s : State) : Move → Instr → Prop where
  | decoder {i : Instr} (h : OwnStep s i) : MoveOp s .decoder i
  | timer : MoveOp s .timer .tick
  | irq : MoveOp s .irq .ovfService
  | drive (v : Bool) : MoveOp s (.drive v) (.sensorDrive v)
  | command : MoveOp s .command .getReading
  | reset : MoveOp s .reset .hwReset
  | enable (v : Bool) : MoveOp s (.enable v) (.setIe v)

theorem decode_word_iff {s : State} {m : Move} {i : Instr} : decode (m.word (decoderWord s)) = .ok i ↔ MoveOp s m i := by
  constructor
  · intro h
    cases m with
    | decoder => exact .decoder (decode_decoderWord_iff.1 h)
    | timer => cases (decode_encode .tick).symm.trans h; exact .timer
    | irq => cases (decode_encode .ovfService).symm.trans h; exact .irq
    | drive v => cases (decode_encode (.sensorDrive v)).symm.trans h; exact .drive v
    | command => cases (decode_encode .getReading).symm.trans h; exact .command
    | reset => cases (decode_encode .hwReset).symm.trans h; exact .reset
    | enable v => cases (decode_encode (.setIe v)).symm.trans h; exact .enable v
  · intro h
    cases h with
    | decoder h => exact decode_decoderWord_iff.2 h
    | _ => exact decode_encode _

/-! ### The step on an issued word -/

theorem isStageStep_iff (i : Instr) : isStageStep i = true ↔ opField (encode i) 6 2 = 0 := by
  cases i with
  | waitForLevel l => cases l <;> decide
  | measurePulse l => cases l <;> decide
  | sensorDrive v => cases v <;> decide
  | setIe v => cases v <;> decide
  | _ => decide

theorem isStageStep_iff_of_decode {w : Byte} {i : Instr} (h : decode w = .ok i) :
    isStageStep i = true ↔ opField w 6 2 = 0 := by
  rw [isStageStep_iff, encode_of_decode h]

theorem selected_iff {s : State} {w : Byte} {i : Instr} (h : decode w = .ok i) :
    selected s w = true ↔ (isStageStep i = true → w = decoderWord s) := by
  simp [selected, isStageStep_iff_of_decode h, or_iff_not_imp_left]

theorem nextWord_of_issued {s : State} {w : Byte} (h : s.issued = some w) : nextWord s = w := by
  simp only [nextWord, h]

theorem taken_of_issued {s : State} {w : Byte} (h : s.issued = some w) : taken s = { s with issued := none } := by
  simp only [taken, h]

theorem step_of_issued {s : State} {w : Byte} {i : Instr} (h : s.issued = some w) (hd : decode w = .ok i)
    (hsel : isStageStep i = true → w = decoderWord s) : step s = exec i { s with issued := none } := by
  simp only [step, nextWord_of_issued h, hd, (selected_iff hd).2 hsel, if_true, taken_of_issued h]

/-! ### The step on an agent's move -/

theorem nextWord_of_agents {s : State} (h : s.issued = none) : nextWord s = (upcoming s).word (decoderWord s) := by
  simp only [nextWord, h]

theorem step_of_agents {s : State} {i : Instr} (h : s.issued = none) (hop : MoveOp s (upcoming s) i) :
    step s = exec i (taken s) := by
  simp only [step, nextWord_of_agents h, decode_word_iff.2 hop, selected_word, if_true]

theorem upcoming_of_agenda {s : State} {m : Move} {rest : List Move} (h : s.agenda = m :: rest) : upcoming s = m := by
  simp only [upcoming, h]

theorem taken_of_agenda {s : State} {m : Move} {rest : List Move} (hi : s.issued = none) (h : s.agenda = m :: rest) :
    taken s = { s with agenda := rest } := by
  simp only [taken, hi, h]

theorem upcoming_of_free {s : State} (h : s.agenda = []) : upcoming s = Config.nextMove s.turn := by
  simp only [upcoming, h]

theorem taken_of_free {s : State} (hi : s.issued = none) (h : s.agenda = []) :
    taken s = { s with turn := s.turn + 1 } := by
  simp only [taken, hi, h]

theorem step_of_agenda {s : State} {m : Move} {rest : List Move} {i : Instr} (hi : s.issued = none)
    (ha : s.agenda = m :: rest) (hop : MoveOp s m i) : step s = exec i { s with agenda := rest } := by
  rw [← taken_of_agenda hi ha]
  exact step_of_agents hi (upcoming_of_agenda ha ▸ hop)

/-- A step of the agents that answers a next state runs the operation of the move that is up. -/
theorem step_next_of_agents {s t : State} (h : s.issued = none) (ht : step s = .next t) :
    ∃ i, MoveOp s (upcoming s) i ∧ exec i (taken s) = .next t := by
  obtain ⟨i, hd, -, hexec⟩ := step_next ht
  exact ⟨i, decode_word_iff.1 (nextWord_of_agents h ▸ hd), hexec⟩

theorem step_next_of_agenda {s t : State} {m : Move} {rest : List Move} (hi : s.issued = none)
    (ha : s.agenda = m :: rest) (ht : step s = .next t) :
    ∃ i, MoveOp s m i ∧ exec i { s with agenda := rest } = .next t := by
  rw [← taken_of_agenda hi ha, ← upcoming_of_agenda ha]
  exact step_next_of_agents hi ht

/-- Settles O1: `step_of_issued` for an issued word, `step_of_agenda` for a listed move, `step_of_agents` for a free one. -/
theorem stepRunsTheDecodedOperation : Obligations.StepRunsTheDecodedOperation := by
  intro s i
  refine ⟨fun w hw hd hsel => step_of_issued hw hd hsel,
    fun m rest hi ha hd => step_of_agenda hi ha (decode_word_iff.1 hd), fun hi ha hd => ?free⟩
  case free => rw [step_of_agents hi (upcoming_of_free ha ▸ decode_word_iff.1 hd), taken_of_free hi ha]

/-- Settles O2: the DECODER's word names a stage step, which runs, or nothing, which is stuck. -/
theorem stageAndPhaseSelectTheStep : Obligations.StageAndPhaseSelectTheStep := by
  intro s rest hi ha
  refine ⟨fun i hd => ⟨decoderWord_isStageStep hd, ?_⟩, fun e he => ?_, decode_decoderWord_error_iff s⟩
  · exact step_of_agenda hi ha (.decoder (decode_decoderWord_iff.1 hd))
  · have hword : nextWord s = decoderWord s := by rw [nextWord_of_agents hi, upcoming_of_agenda ha]; rfl
    simp only [step, hword, he, noOperation, hi]

/-- Settles O3: a word without an operation is refused; a stage word that is not the DECODER's is not selected. -/
theorem reservedWordsAreRefused : Obligations.ReservedWordsAreRefused := by
  intro s w hw
  refine ⟨fun e he => ?_, fun i hd hstage hne => ?_⟩
  · simp only [step, nextWord_of_issued hw, he, noOperation, hw]
  · have hsel : selected s w = false := Bool.eq_false_iff.2 fun h => hne ((selected_iff hd).1 h hstage)
    simp [step, nextWord_of_issued hw, hd, hsel]

end Sys2Proof.Machine
end

section
/-! The value of the clock (R113 to R117): what each operation does to `NOW()`, and its growth over any sequence of operations
in which no overflow is lost. -/

namespace Sys2Proof.Machine

/-! ### The clock read -/

/-- The count of overflows may be folded modulo 2^32 or not: the clock value is the same. -/
theorem nowOf_eq (s : State) : nowOf s =
    BitVec.ofNat 32 (((s.ovf.toNat + s.ovp.toNat) * s.par.period + s.cnt) * s.par.usPerTick) := by
  apply BitVec.eq_of_toNat_eq
  simp only [nowOf, clockTicks, overflows, BitVec.toNat_ofNat]
  exact (((Nat.mod_modEq _ _).mul_right _).add_right _).mul_right _

theorem period_pos (p : Config.Params) : 0 < p.period := Nat.two_pow_pos _

theorem nowOf_tick_of_counts (s : State) :
    nowOf { s with cnt := s.cnt + 1 } = nowOf s + BitVec.ofNat 32 s.par.usPerTick := by
  simp only [nowOf_eq, ← BitVec.ofNat_add]
  congr 1
  ring

/-- A wrap carries `CNT` into `OVP`, and the clock value does not notice (R110). -/
theorem nowOf_tick_of_wraps {s : State} (hcnt : s.cnt = s.par.period - 1) (hovp : s.ovp = false) :
    nowOf { s with cnt := 0, ovp := true } = nowOf s + BitVec.ofNat 32 s.par.usPerTick := by
  have hperiod : s.par.period = s.cnt + 1 := by have := period_pos s.par; omega
  simp only [nowOf_eq, ← BitVec.ofNat_add, hovp, hperiod, Bool.toNat_true, Bool.toNat_false]
  congr 1
  ring

/-- A wrap with an overflow pending loses it: the value is `P` · `U` behind one tick on (R117). -/
theorem nowOf_tick_of_lost {s : State} (hcnt : s.cnt = s.par.period - 1) (hovp : s.ovp = true) :
    nowOf { s with cnt := 0, ovp := true } + BitVec.ofNat 32 (s.par.period * s.par.usPerTick) =
      nowOf s + BitVec.ofNat 32 s.par.usPerTick := by
  have hperiod : s.par.period = s.cnt + 1 := by have := period_pos s.par; omega
  simp only [nowOf_eq, ← BitVec.ofNat_add, hovp, hperiod]
  congr 1
  ring

/-- The service moves the pending overflow into `OVF`, and the clock value does not notice (R111). -/
theorem nowOf_service {s : State} (hovp : s.ovp = true) : nowOf { s with ovf := s.ovf + 1, ovp := false } = nowOf s := by
  simp [nowOf, clockTicks, overflows, hovp]

/-! ### One operation -/

/-- Settles O8: an enabled service, and `nowOf_service`. -/
theorem overflowServiceCountsOnce : Obligations.OverflowServiceCountsOnce := by
  intro s hie hovp
  refine ⟨{ s with ovf := s.ovf + 1, ovp := false }, ?_, ?_, nowOf_service hovp⟩
  · exact congrArg Host.Outcome.next (if_pos (by simp [serviceEnabled, hie, hovp]))
  · have hcount : s.ovf + 1 = BitVec.ofNat 32 (s.ovf.toNat + 1) := by simp [BitVec.ofNat_add]
    rw [hcount]

/-- Settles O9: the service's test fails. -/
theorem overflowServiceNotEnabledDoesNothing : Obligations.OverflowServiceNotEnabledDoesNothing := by
  intro s hoff
  refine congrArg Host.Outcome.next (if_neg ?_)
  obtain hie | hovp := hoff
  · simp [serviceEnabled, hie]
  · simp [serviceEnabled, hovp]

/-- Settles O10: the one update of `SET_IE`. -/
theorem setIeWritesTheEnableOnly : Obligations.SetIeWritesTheEnableOnly :=
  fun _ _ => ⟨_, rfl, rfl, rfl⟩

/-- Settles O11: the answer of `NOW`, and `nowOf` read as a number. -/
theorem nowReturnsTheFoldedClock : Obligations.NowReturnsTheFoldedClock := by
  refine fun s => ⟨rfl, ?_⟩
  have hpending : s.ovp.toNat = if s.ovp then 1 else 0 := by cases s.ovp <;> rfl
  simp only [nowOf, clockTicks, overflows, BitVec.toNat_ofNat, hpending]

/-- Settles O13: the tick wraps, and `nowOf_tick_of_lost` says by how much the value is behind. -/
theorem lostOverflowStepsTheClockBack : Obligations.LostOverflowStepsTheClockBack := by
  intro s _ hcnt hovp
  exact ⟨_, exec_tick_of_wraps hcnt, rfl, by rw [← nowOf_tick_of_lost hcnt hovp, BitVec.add_sub_cancel]⟩

/-! ### Any operation -/

theorem Effect.par_eq {i : Instr} {s t : State} (h : Effect i s t) : t.par = s.par := by
  cases h <;> rfl

/-- Only `TICK` and `HW_RESET` change the clock's position in its period, or the clock value. -/
theorem Effect.now_kept {i : Instr} {s t : State} (h : Effect i s t) (htick : i ≠ .tick) (hreset : i ≠ .hwReset) :
    t.cnt = s.cnt ∧ nowOf t = nowOf s := by
  cases h with
  | tickWrap | tickOn => exact absurd rfl htick
  | reset => exact absurd rfl hreset
  | service _ hovp => exact ⟨rfl, nowOf_service hovp⟩
  | _ => exact ⟨rfl, nowOf_congr rfl rfl rfl rfl⟩

/-- A tick that loses no overflow: the counter stays below the period, and the clock value grows by `U` (R110, R114). -/
theorem exec_tick_now {s t : State} (hcnt : s.cnt < s.par.period) (hlost : overflowLost .tick s = false)
    (h : exec .tick s = .next t) :
    t.cnt < s.par.period ∧ nowOf t = nowOf s + BitVec.ofNat 32 s.par.usPerTick := by
  by_cases hwrap : s.cnt = s.par.period - 1
  · cases (exec_tick_of_wraps hwrap).symm.trans h
    have hovp : s.ovp = false := by simpa [overflowLost, (atWrap_iff s).2 hwrap] using hlost
    exact ⟨period_pos s.par, nowOf_tick_of_wraps hwrap hovp⟩
  · cases (exec_tick_of_counts hwrap).symm.trans h
    exact ⟨show s.cnt + 1 < s.par.period by omega, nowOf_tick_of_counts s⟩

/-- One operation that is no reset and loses no overflow adds `U` to the clock value if it is a tick, and else nothing. -/
theorem exec_now {i : Instr} {s t : State} (hcnt : s.cnt < s.par.period) (hreset : i ≠ .hwReset)
    (hlost : overflowLost i s = false) (h : exec i s = .next t) :
    t.cnt < t.par.period ∧ nowOf t = nowOf s + BitVec.ofNat 32 (ticksIn [i] * s.par.usPerTick) := by
  have hpar := (exec_effect h).par_eq
  by_cases htick : i = .tick
  · subst htick
    obtain ⟨hcnt', hnow⟩ := exec_tick_now hcnt hlost h
    exact ⟨hpar ▸ hcnt', by simpa [ticksIn] using hnow⟩
  · obtain ⟨hcnt', hnow⟩ := (exec_effect h).now_kept htick hreset
    exact ⟨by rwa [hcnt', hpar], by simp [ticksIn, hnow, htick]⟩

/-! ### Any sequence of operations -/

theorem runOps_cons_next {i : Instr} {is : List Instr} {s t : State} (h : runOps (i :: is) s = .next t) :
    ∃ u, exec i s = .next u ∧ runOps is u = .next t := by
  rw [runOps] at h
  cases hexec : exec i s with
  | next u => exact ⟨u, rfl, by rwa [hexec] at h⟩
  | fault r => rw [hexec] at h; cases h
  | refused r => rw [hexec] at h; cases h

theorem noOverflowLost_cons {i : Instr} {is : List Instr} {s u : State} (hexec : exec i s = .next u)
    (h : noOverflowLost (i :: is) s = true) : overflowLost i s = false ∧ noOverflowLost is u = true := by
  simpa [noOverflowLost, hexec] using h

/-- Settles O12, by induction on the sequence: `exec_now` for its first operation. -/
theorem clockCountsEveryTick : Obligations.ClockCountsEveryTick := by
  intro is
  induction is with
  | nil =>
    intro s t _ _ _ hrun
    cases hrun
    simp [ticksIn]
  | cons i is ih =>
    intro s t hcnt hreset hlost hrun
    obtain ⟨u, hexec, hrest⟩ := runOps_cons_next hrun
    obtain ⟨hi, his⟩ := noOverflowLost_cons hexec hlost
    rw [List.mem_cons, not_or] at hreset
    obtain ⟨hcnt', hnow⟩ := exec_now hcnt (Ne.symm hreset.1) hi hexec
    have hsplit : ticksIn (i :: is) = ticksIn [i] + ticksIn is := by
      simp [ticksIn, List.count_cons, Nat.add_comm]
    rw [ih u t hcnt' hreset.2 his hrest, hnow, (exec_effect hexec).par_eq, BitVec.add_assoc, ← BitVec.ofNat_add,
      ← Nat.add_mul, ← hsplit]

end Sys2Proof.Machine
end

section
/-! The invariant (R44): it holds at reset, every effect of an agent's move keeps it, and in a legal state every move has its
effect. -/

namespace Sys2Proof.Machine

/-! ### Where a stage step runs -/

/-- The stage of a stage step (R93). -/
def stageOf : Instr → Stage
  | .stReset => .reset
  | .stRelease => .release
  | .stSynclowSkip | .stSynclowLead | .stSynclowTrail => .synclow
  | .stSynchigh => .synchigh
  | .stRxSkip | .stRxLead | .stRxTrail => .receivebits
  | .stValidate => .validate
  | .stDone => .done
  | _ => .idle

theorem OwnStep.stage_eq {s : State} {i : Instr} (h : OwnStep s i) : s.stage = stageOf i := by
  cases h <;> assumption

theorem MoveOp.ownStep {s : State} {m : Move} {i : Instr} (h : MoveOp s m i) (hi : isStageStep i = true) :
    OwnStep s i := by
  cases h with
  | decoder h => exact h
  | _ => cases hi

theorem isSynclowStep.stage {i : Instr} (h : isSynclowStep i) : isStageStep i = true ∧ stageOf i = .synclow := by
  rcases h with rfl | rfl | rfl <;> exact ⟨rfl, rfl⟩

theorem isRxStep.stage {i : Instr} (h : isRxStep i) : isStageStep i = true ∧ stageOf i = .receivebits := by
  rcases h with rfl | rfl | rfl <;> exact ⟨rfl, rfl⟩

theorem MoveOp.stage_synclow {s : State} {m : Move} {i : Instr} (h : MoveOp s m i) (hi : isSynclowStep i) :
    s.stage = .synclow :=
  (h.ownStep hi.stage.1).stage_eq.trans hi.stage.2

theorem MoveOp.stage_receivebits {s : State} {m : Move} {i : Instr} (h : MoveOp s m i) (hi : isRxStep i) :
    s.stage = .receivebits :=
  (h.ownStep hi.stage.1).stage_eq.trans hi.stage.2

/-- Which stage step is selected depends on (`STAGE`, `PHASE`) only. -/
theorem OwnStep.congr {s s' : State} {i : Instr} (h : OwnStep s i) (hs : s'.stage = s.stage) (hp : s'.phase = s.phase) :
    OwnStep s' i := by
  rw [← decode_decoderWord_iff, decoderWord, hs, hp]
  exact decode_decoderWord_iff.2 h

/-- A move's operation depends on (`STAGE`, `PHASE`) only. -/
theorem MoveOp.congr {s s' : State} {m : Move} {i : Instr} (h : MoveOp s m i) (hs : s'.stage = s.stage)
    (hp : s'.phase = s.phase) : MoveOp s' m i := by
  cases h with
  | decoder h => exact .decoder (h.congr hs hp)
  | _ => constructor

theorem taken_of_agents {s : State} (h : s.issued = none) :
    ∃ a n, taken s = { s with agenda := a, turn := n } := by
  cases ha : s.agenda with
  | nil => exact ⟨s.agenda, _, taken_of_free h ha⟩
  | cons m rest => exact ⟨rest, s.turn, taken_of_agenda h ha⟩

/-! ### Reset -/

/-- Settles O51: the update of `HW_RESET` is the reset state with what it keeps or leaves open. -/
theorem hardwareResetClearsTheBlock : Obligations.HardwareResetClearsTheBlock :=
  fun _ => ⟨_, _, _, rfl⟩

/-- Settles O52: the registers of the reset state. -/
theorem resetShowsNoResult : Obligations.ResetShowsNoResult := by
  intro p
  refine ⟨readingOf_of_not_resValid rfl, rfl, rfl, rfl, rfl, rfl, rfl, rfl, rfl, ?_, Memory.read_nil⟩
  simp [nowOf_eq, State.resetWith]

theorem LegalState.resetWith {p : Config.Params} (hp : p.wf = true) : LegalState (State.resetWith p) where
  parWf := hp
  cntBelow := period_pos p
  frameWf := Memory.wf_nil
  phaseLegal := nofun
  phaseSkip _ _ := rfl
  bitsNone _ := rfl
  bitsBelow := nofun
  bitsAll := nofun
  bitsMost := Nat.zero_le 40
  busyIff := by simp [State.resetWith]
  startIdle _ := rfl
  padIff := by simp [State.resetWith]
  doneIdle _ := rfl
  noResultYet := nofun
  resultKnown := by simp [State.resetWith]
  validFrame := nofun
  failedZero _ := ⟨rfl, rfl, rfl, rfl⟩
  fromAgents := rfl

/-- Settles O53: `LegalState.resetWith`, under any parameters and under those of the reference. -/
theorem invariantHoldsAtReset : Obligations.InvariantHoldsAtReset :=
  ⟨fun _ => .resetWith, .resetWith (by decide)⟩

/-! ### What the invariant says of a running attempt -/

section Keeps

variable {s : State}

theorem LegalState.running_facts (h : LegalState s) (hrun : s.stage.running = true) :
    s.stage ≠ .idle ∧ s.busy = true ∧ s.start = false ∧ s.donef = false := by
  have hidle : s.stage ≠ .idle := fun hi => by rw [hi] at hrun; cases hrun
  exact ⟨hidle, h.busyIff.2 hidle, Bool.eq_false_iff.2 (mt h.startIdle hidle), Bool.eq_false_iff.2 (mt h.doneIdle hidle)⟩

/-! ### The updates that keep the invariant -/

/-- The invariant says nothing of `T0`, `TS`, `SAMPLE`, of the clock beyond `CNT` < `P`, of `IE` and `SENS`, and of the model's
own fields but `issued`. -/
theorem LegalState.free (h : LegalState s) {t0 ts w : Time} {n : Nat} {ovf : BitVec 32} {ovp ie sens : Bool}
    {args : PrimArgs} {call : Call} {ret : PrimResult} {ix turn : Nat} {agenda : List Move} (hn : n < s.par.period) :
    LegalState { s with
      t0 := t0, ts := ts, sample := w, cnt := n, ovf := ovf, ovp := ovp, ie := ie, sens := sens, args := args,
      call := call, ret := ret, unspecIx := ix, turn := turn, agenda := agenda } :=
  { h with cntBelow := hn }

/-- A running attempt goes on in a stage that fits its bit count and its pad. -/
theorem LegalState.advance (h : LegalState s) (hrun : s.stage.running = true) {st : Stage} {ph : Phase} {t0 ts w : Time}
    {b : BitVec 6} {m : Memory} {g : PadMode} (hst : st.running = true) (hph : ph ≠ .reserved)
    (hskip : st ≠ .synclow → st ≠ .receivebits → ph = .skip) (hnone : st.beforeBits = true → b = 0)
    (hbelow : st = .receivebits → b.toNat < 40) (hall : st = .validate → b.toNat = 40) (hmost : b.toNat ≤ 40)
    (hm : Memory.wf m = true) (hg : g = .outputLow ↔ st = .reset ∨ st = .release) :
    LegalState { s with
      stage := st, phase := ph, t0 := t0, ts := ts, sample := w, bitIdx := b, frame := m, gmode := g } := by
  obtain ⟨-, hbusy, hstart, hdone⟩ := h.running_facts hrun
  obtain ⟨hvalid, hreason⟩ := h.noResultYet hrun
  have hidle : st ≠ .idle := fun hi => by rw [hi] at hst; cases hst
  have hend : st ≠ .done := fun hi => by rw [hi] at hst; cases hst
  exact { h with
    frameWf := hm
    phaseLegal := hph
    phaseSkip := hskip
    bitsNone := hnone
    bitsBelow := hbelow
    bitsAll := hall
    bitsMost := hmost
    busyIff := by simp [hbusy, hidle]
    startIdle := by simp [hstart]
    padIff := hg
    doneIdle := by simp [hdone]
    noResultYet := fun _ => ⟨hvalid, hreason⟩
    resultKnown := by simp [hend, hdone]
    validFrame := by simp [hvalid] }

/-- A running attempt that has let go of the line ends in `DONE` with a result. -/
theorem LegalState.finish (h : LegalState s) (hrun : s.stage.running = true) (hpad : s.gmode = .inputPullup) {w : Time}
    {v : Bool} {r : ReasonCode} {hi hf ti tf : Byte} (hknown : v = true ∨ r ≠ .unknown)
    (hvalid : v = true → r = .unknown ∧ frameValid s.frame = true ∧ hi = Memory.read s.frame 0 ∧
      hf = Memory.read s.frame 1 ∧ ti = Memory.read s.frame 2 ∧ tf = Memory.read s.frame 3)
    (hfailed : v = false → hi = 0 ∧ hf = 0 ∧ ti = 0 ∧ tf = 0) :
    LegalState { s with
      stage := .done, phase := .skip, sample := w, resValid := v, resReason := r, humI := hi, humF := hf, tmpI := ti,
      tmpF := tf } := by
  obtain ⟨-, hbusy, hstart, hdone⟩ := h.running_facts hrun
  exact { h with
    phaseLegal := nofun
    phaseSkip := fun _ _ => rfl
    bitsNone := nofun
    bitsBelow := nofun
    bitsAll := nofun
    busyIff := by simp [hbusy]
    startIdle := by simp [hstart]
    padIff := by simp [hpad]
    doneIdle := by simp [hdone]
    noResultYet := nofun
    resultKnown := fun _ => hknown
    validFrame := hvalid
    failedZero := hfailed }

/-- The failure entry from a stage that can fail (R223). -/
theorem LegalState.failWith (h : LegalState s) (hrun : s.stage.running = true) (hpad : s.gmode = .inputPullup) {w : Time}
    {ph : Phase} {r : ReasonCode} (hr : r ≠ .unknown) : LegalState (failWith r { s with sample := w, phase := ph }) := by
  obtain ⟨hinvalid, hzero⟩ := h.result_clear_of_running hrun
  exact h.finish hrun hpad (.inr hr) (by simp [hinvalid]) fun _ => hzero

theorem LegalState.publishFrame (h : LegalState s) (hs : s.stage = .validate) (hframe : frameValid s.frame = true) :
    LegalState (publishFrame s) := by
  have hrun : s.stage.running = true := by rw [hs]; rfl
  have hskip : s.phase = .skip := h.phaseSkip (by simp [hs]) (by simp [hs])
  have hdone := h.finish hrun (h.gmode_eq_inputPullup (by simp [hs]) (by simp [hs])) (w := s.sample) (v := true)
    (.inl rfl) (fun _ => ⟨(h.noResultYet hrun).2, hframe, rfl, rfl, rfl, rfl⟩) nofun
  rw [← hskip] at hdone
  exact hdone

theorem LegalState.beginAttempt (h : LegalState s) : LegalState (beginAttempt s) :=
  { h with
    frameWf := Memory.wf_nil
    phaseLegal := nofun
    phaseSkip := fun _ _ => rfl
    bitsNone := fun _ => rfl
    bitsBelow := nofun
    bitsAll := nofun
    bitsMost := Nat.zero_le 40
    busyIff := by simp
    startIdle := nofun
    padIff := by simp
    doneIdle := nofun
    noResultYet := fun _ => ⟨rfl, rfl⟩
    resultKnown := by simp
    validFrame := nofun
    failedZero := fun _ => ⟨rfl, rfl, rfl, rfl⟩ }

theorem LegalState.endAttempt (h : LegalState s) (hs : s.stage = .done) : LegalState (endAttempt s) :=
  have hpad := h.gmode_eq_inputPullup (by simp [hs]) (by simp [hs])
  { h with
    phaseSkip := fun _ _ => h.phaseSkip (by simp [hs]) (by simp [hs])
    bitsNone := nofun
    bitsBelow := nofun
    bitsAll := nofun
    busyIff := by simp
    startIdle := fun _ => rfl
    padIff := by simp [hpad]
    doneIdle := fun _ => rfl
    noResultYet := nofun
    resultKnown := fun _ => h.resultKnown (.inl hs) }

theorem LegalState.command (h : LegalState s) (hbusy : s.busy = false) : LegalState { s with start := true } :=
  have hs : s.stage = .idle := by_contra fun hne => by simp [h.busyIff.2 hne] at hbusy
  { h with startIdle := fun _ => hs }

/-- A bit taken: the count stays in its range, and the fortieth bit leads to `VALIDATE` (R44 (b)). -/
theorem LegalState.bit (h : LegalState s) (hs : s.stage = .receivebits) {m : Memory} {v : Bool} {t0 w : Time}
    (hb : s.bitIdx.toNat < 40) (hm : storeBit s.frame s.bitIdx.toNat v = some m) :
    LegalState { s with
      sample := w, phase := .skip, frame := m, bitIdx := s.bitIdx + 1,
      stage := if s.bitIdx.toNat = 39 then .validate else s.stage, t0 := t0 } := by
  have hnext : (s.bitIdx + 1).toNat = s.bitIdx.toNat + 1 := by bv_omega
  have hpad := h.gmode_eq_inputPullup (by simp [hs]) (by simp [hs])
  have hframe := wf_storeBit h.frameWf hm
  rw [hs]
  by_cases h39 : s.bitIdx.toNat = 39
  · simp only [h39, if_true]
    exact h.advance (by rw [hs]; rfl) rfl nofun (fun _ _ => rfl) nofun nofun (fun _ => by omega) (by omega) hframe
      (by simp [hpad])
  · simp only [h39, if_false]
    exact h.advance (by rw [hs]; rfl) rfl nofun (fun _ _ => rfl) nofun (fun _ => by omega) nofun (by omega) hframe
      (by simp [hpad])

end Keeps

/-! ### Every move keeps the invariant and has its effect -/

/-- The effect of an agent's move on a legal state is a legal state (R44). -/
theorem LegalState.effect {s t : State} {m : Move} {i : Instr} (h : LegalState s) (hop : MoveOp s m i)
    (heff : Effect i s t) : LegalState t := by
  have hstage : isStageStep i = true → s.stage = stageOf i := fun hi => (hop.ownStep hi).stage_eq
  have hpad : s.stage ≠ .reset → s.stage ≠ .release → s.gmode = .inputPullup := h.gmode_eq_inputPullup
  cases heff with
  | idleWait | resetWait | synclowWait | synchighWait | rxWait | serviceOff | commandIgnored => exact h
  | idleBegin => exact h.beginAttempt
  | resetEnd =>
    have hs : s.stage = .reset := hstage rfl
    exact h.advance (by rw [hs]; rfl) rfl h.phaseLegal (fun _ _ => h.phaseSkip (by simp [hs]) (by simp [hs]))
      (fun _ => h.bitsNone (by rw [hs]; rfl)) nofun nofun h.bitsMost h.frameWf (by simp [h.padIff, hs])
  | release =>
    have hs : s.stage = .release := hstage rfl
    exact h.advance (by rw [hs]; rfl) rfl nofun (fun _ _ => rfl) (fun _ => h.bitsNone (by rw [hs]; rfl)) nofun nofun
      h.bitsMost h.frameWf (by simp)
  | synclowLead | synclowTrail =>
    have hs : s.stage = .synclow := hstage rfl
    have hrun : s.stage.running = true := by rw [hs]; rfl
    exact h.advance hrun hrun nofun (fun hne => absurd hs hne) h.bitsNone h.bitsBelow h.bitsAll h.bitsMost h.frameWf
      h.padIff
  | synclowFail hi =>
    have hs := hop.stage_synclow hi
    exact h.failWith (by rw [hs]; rfl) (hpad (by simp [hs]) (by simp [hs])) nofun
  | synclowPass =>
    have hs : s.stage = .synclow := hstage rfl
    exact h.advance (by rw [hs]; rfl) rfl nofun (fun _ _ => rfl) (fun _ => h.bitsNone (by rw [hs]; rfl)) nofun nofun
      h.bitsMost h.frameWf (by simp [hpad, hs])
  | synchighFail =>
    have hs : s.stage = .synchigh := hstage rfl
    exact h.failWith (by rw [hs]; rfl) (hpad (by simp [hs]) (by simp [hs])) (w := s.sample) (ph := s.phase) nofun
  | synchighEnd =>
    have hs : s.stage = .synchigh := hstage rfl
    have hzero : s.bitIdx = 0 := h.bitsNone (by rw [hs]; rfl)
    exact h.advance (by rw [hs]; rfl) rfl nofun (fun _ _ => rfl) nofun (fun _ => by simp [hzero]) nofun h.bitsMost
      h.frameWf (by simp [hpad, hs])
  | rxLead | rxTrail =>
    have hs : s.stage = .receivebits := hstage rfl
    have hrun : s.stage.running = true := by rw [hs]; rfl
    exact h.advance hrun hrun nofun (fun _ hne => absurd hs hne) h.bitsNone h.bitsBelow h.bitsAll h.bitsMost h.frameWf
      h.padIff
  | rxFail hi =>
    have hs := hop.stage_receivebits hi
    exact h.failWith (by rw [hs]; rfl) (hpad (by simp [hs]) (by simp [hs])) nofun
  | rxBit _ hb hm => exact h.bit (hstage rfl) hb hm
  | valid hframe => exact h.publishFrame (hstage rfl) hframe
  | invalid =>
    have hs : s.stage = .validate := hstage rfl
    exact h.failWith (by rw [hs]; rfl) (hpad (by simp [hs]) (by simp [hs])) (w := s.sample) (ph := s.phase) nofun
  | done => exact h.endAttempt (hstage rfl)
  | answered => exact h.free h.cntBelow
  | outputLow | inputPullup => cases hop with | decoder hown => cases hown
  | tickWrap => exact h.free (period_pos s.par)
  | tickOn hne => exact h.free (by have := h.cntBelow; omega)
  | service | drive | enable => exact h.free h.cntBelow
  | command hbusy => exact h.command hbusy
  | reset =>
    have hreset : LegalState { State.resetWith s.par with issued := s.issued } := h.fromAgents ▸ .resetWith h.parWf
    exact hreset.free hreset.cntBelow

theorem LegalState.exists_ownStep {s : State} (h : LegalState s) : ∃ i, OwnStep s i := by
  cases hd : decode (decoderWord s) with
  | ok i => exact ⟨i, decode_decoderWord_iff.1 hd⟩
  | error e =>
    obtain hres | ⟨hskip, hlow, hrx⟩ := (decode_decoderWord_error_iff s).1 ⟨e, hd⟩
    · exact absurd hres h.phaseLegal
    · exact absurd (h.phaseSkip hlow hrx) hskip

theorem LegalState.exists_moveOp {s : State} (h : LegalState s) (m : Move) : ∃ i, MoveOp s m i := by
  cases m with
  | decoder =>
    obtain ⟨i, hown⟩ := h.exists_ownStep
    exact ⟨i, .decoder hown⟩
  | timer => exact ⟨_, .timer⟩
  | irq => exact ⟨_, .irq⟩
  | drive v => exact ⟨_, .drive v⟩
  | command => exact ⟨_, .command⟩
  | reset => exact ⟨_, .reset⟩
  | enable v => exact ⟨_, .enable v⟩

/-- Every move of an agent has its effect in a legal state. -/
theorem LegalState.exec_effect {s : State} {m : Move} {i : Instr} (h : LegalState s) (hop : MoveOp s m i) :
    ∃ t, exec i s = .next t ∧ Effect i s t ∧ LegalState t := by
  obtain ⟨t, hexec⟩ := exec_completes i s fun hi => h.bitsBelow (hop.stage_receivebits hi)
  have heff := Machine.exec_effect hexec
  exact ⟨t, hexec, heff, h.effect hop heff⟩

/-- A step of a legal state is the effect of the move that is up, on the state with that move taken. -/
theorem LegalState.step {s : State} (h : LegalState s) : ∃ t, step s = .next t ∧ LegalState t := by
  obtain ⟨a, n, htaken⟩ := taken_of_agents h.fromAgents
  obtain ⟨i, hop⟩ := h.exists_moveOp (upcoming s)
  have hlegal : LegalState (taken s) := htaken ▸ h.free h.cntBelow
  obtain ⟨t, hexec, -, ht⟩ := hlegal.exec_effect (hop.congr (by rw [htaken]) (by rw [htaken]))
  exact ⟨t, (step_of_agents h.fromAgents hop).trans hexec, ht⟩

/-- Settles O54: the one step a legal state has (`LegalState.step`) leads to a legal state. -/
theorem everyStepKeepsTheInvariant : Obligations.EveryStepKeepsTheInvariant := by
  intro s t h hstep
  obtain ⟨t', hstep', ht'⟩ := h.step
  cases hstep'.symm.trans hstep
  exact ht'

/-- Settles O55: `LegalState.step`. -/
theorem noLegalStateStops : Obligations.NoLegalStateStops := by
  intro s h
  obtain ⟨t, hstep, -⟩ := h.step
  exact ⟨t, hstep⟩

/-! ### What a completed attempt shows -/

/-- R44 (g) at the ports: a completed attempt does not read as `Failed{Unknown}`. -/
theorem LegalState.readingOf_ne_unknown {s : State} (h : LegalState s) (hdone : s.donef = true) :
    readingOf s ≠ .failed .unknown := by
  cases hv : s.resValid with
  | true => simp [readingOf_of_resValid hv]
  | false => simpa [readingOf_of_not_resValid hv, hv] using h.resultKnown (.inr hdone)

theorem ReasonCode.code_of_ne_unknown {r : ReasonCode} (h : r ≠ .unknown) : r.code.toNat ∈ [1, 2, 3, 4] := by
  cases r with
  | unknown => exact absurd rfl h
  | _ => decide

/-- Settles O56: R44 (c) and (g) in the state the step leads to. -/
theorem completedAttemptsHaveAResult : Obligations.CompletedAttemptsHaveAResult := by
  intro s t h hstep hdone
  have ht := everyStepKeepsTheInvariant s t h hstep
  refine ⟨?busy, ht.readingOf_ne_unknown hdone, fun hv => ?code⟩
  case busy => exact Bool.eq_false_iff.2 fun hb => ht.busyIff.1 hb (ht.doneIdle hdone)
  case code =>
    have hinvalid : t.resValid = false := hv
    exact ReasonCode.code_of_ne_unknown (by simpa [hinvalid] using ht.resultKnown (.inr hdone))

end Sys2Proof.Machine
end

section
/-! The registers that are never read before they are written (R44 (h)): two states that differ only in them execute every
operation alike. -/

namespace Sys2Proof.Machine

/-- Other values in `T0`, `TS` and `SAMPLE`. -/
def setUnread (a b c : Time) (s : State) : State := { s with t0 := a, ts := b, sample := c }

/-- Where the first outcome is a next state, so is the second, and the two differ in unread registers only. -/
def AlikeResults (r₁ r₂ : Result) : Prop := ∀ t₁, r₁ = .next t₁ → ∃ t₂, r₂ = .next t₂ ∧ SameButUnread t₁ t₂

theorem AlikeResults.next {t₁ t₂ : State} (h : SameButUnread t₁ t₂) : AlikeResults (.next t₁) (.next t₂) := by
  rintro _ ⟨⟩
  exact ⟨t₂, rfl, h⟩

theorem AlikeResults.fault (f : Fault) (r : Result) : AlikeResults (.fault f) r :=
  fun _ h => by cases h

theorem SameButUnread.ite {p : Prop} [Decidable p] {s₁ s₂ t₁ t₂ : State} (hs : SameButUnread s₁ s₂)
    (ht : SameButUnread t₁ t₂) : SameButUnread (if p then s₁ else t₁) (if p then s₂ else t₂) := by
  split
  · exact hs
  · exact ht

section Operations

variable {s : State} {a b c : Time}

/-- An update of registers other than those three, the stage and the phase. -/
theorem SameButUnread.keep (h : SameButUnread s (setUnread a b c s)) {n : Nat} {ovf : BitVec 32}
    {ovp ie sens start : Bool} {g : PadMode} {call : Call} {ret : PrimResult} :
    SameButUnread
      { s with
        cnt := n, ovf := ovf, ovp := ovp, ie := ie, sens := sens, start := start, gmode := g, call := call, ret := ret }
      { setUnread a b c s with
        cnt := n, ovf := ovf, ovp := ovp, ie := ie, sens := sens, start := start, gmode := g, call := call, ret := ret } :=
  ⟨rfl, h.origin, h.stamp⟩

/-! ### Operations that are no stage step -/

theorem SameButUnread.exec_waitForLevel (h : SameButUnread s (setUnread a b c s)) (l : Level) :
    AlikeResults (exec (.waitForLevel l) s) (exec (.waitForLevel l) (setUnread a b c s)) := by
  have hsame : waitOperands l (setUnread a b c s) = waitOperands l s := rfl
  simp only [exec, execWaitForLevel, hsame, show line (setUnread a b c s) = line s from rfl,
    show nowOf (setUnread a b c s) = nowOf s from rfl]
  cases poll l (waitOperands l s).1 (waitOperands l s).2 (line s) (nowOf s) <;> exact .next h.keep

theorem SameButUnread.exec_measurePulse (h : SameButUnread s (setUnread a b c s)) (l : Level) :
    AlikeResults (exec (.measurePulse l) s) (exec (.measurePulse l) (setUnread a b c s)) := by
  have hsame : pulseOperands l (setUnread a b c s) = pulseOperands l s := rfl
  simp only [exec, execMeasurePulse, hsame, show line (setUnread a b c s) = line s from rfl,
    show nowOf (setUnread a b c s) = nowOf s from rfl]
  cases pulseStep l (pulseOperands l s).timeout (pulseOperands l s).phase (pulseOperands l s).origin
    (pulseOperands l s).start (line s) (nowOf s) <;> exact .next h.keep

theorem SameButUnread.exec_event (h : SameButUnread s (setUnread a b c s)) {i : Instr} (hi : isStageStep i = false) :
    AlikeResults (exec i s) (exec i (setUnread a b c s)) := by
  cases i with
  | waitForLevel l => exact h.exec_waitForLevel l
  | measurePulse l => exact h.exec_measurePulse l
  | now | read | checksum | fractional | setOutputLow | setInputPullup | sensorDrive | setIe => exact .next h.keep
  | tick => exact .next (.ite h.keep h.keep)
  | ovfService => exact .next (.ite h.keep h)
  | getReading => exact .next (.ite h h.keep)
  | hwReset => exact .next ⟨rfl, nofun, nofun⟩
  | _ => cases hi

/-! ### Stage steps -/

/-- The start stamp of a measurement is used in its third wait only. -/
theorem pulseStep_stamp {lv l : Level} {limit t0 t ts ts' : Time} {ph : Phase} (h : ph = .trail → ts = ts') :
    pulseStep lv limit ph t0 ts l t = pulseStep lv limit ph t0 ts' l t := by
  cases ph with
  | trail => rw [h rfl]
  | _ => rfl

theorem SameButUnread.synclowStep (h : SameButUnread s (setUnread a b c s)) {ph : Phase} (hs : s.stage = .synclow)
    (hp : s.phase = ph) : AlikeResults (synclowStep ph s) (synclowStep ph (setUnread a b c s)) := by
  subst hp
  have hpulse : synclowPulse s.phase (setUnread a b c s) = synclowPulse s.phase s := by
    have horigin : s.t0 = a := h.origin (by simp [hs])
    simp only [synclowPulse, horigin, pulseStep_stamp h.stamp]
    rfl
  unfold Machine.synclowStep
  rw [hpulse]
  cases synclowPulse s.phase s with
  | wait => exact .next h
  | lead => exact .next ⟨rfl, h.origin, nofun⟩
  | trail t => exact .next ⟨rfl, h.origin, fun _ => rfl⟩
  | done w => exact .next (.ite ⟨rfl, fun _ => h.origin (by simp [hs]), nofun⟩ ⟨rfl, fun _ => rfl, nofun⟩)

theorem SameButUnread.takeBit (h : SameButUnread s (setUnread a b c s)) (hs : s.stage = .receivebits) (w : Time) :
    AlikeResults (takeBit w s) (takeBit w (setUnread a b c s)) := by
  have hstore : storeBit (setUnread a b c s).frame (setUnread a b c s).bitIdx.toNat (bitOf w) =
      storeBit s.frame s.bitIdx.toNat (bitOf w) := rfl
  unfold Machine.takeBit
  rw [hstore]
  cases storeBit s.frame s.bitIdx.toNat (bitOf w) with
  | none => exact .fault _ _
  | some m => exact .next (.ite ⟨rfl, fun _ => h.origin (by simp [hs]), nofun⟩ ⟨rfl, fun _ => rfl, nofun⟩)

theorem SameButUnread.rxStep (h : SameButUnread s (setUnread a b c s)) {ph : Phase} (hs : s.stage = .receivebits)
    (hp : s.phase = ph) : AlikeResults (rxStep ph s) (rxStep ph (setUnread a b c s)) := by
  subst hp
  have hpulse : rxPulse s.phase (setUnread a b c s) = rxPulse s.phase s := by
    have horigin : s.t0 = a := h.origin (by simp [hs])
    simp only [rxPulse, horigin, pulseStep_stamp h.stamp]
    rfl
  unfold Machine.rxStep
  rw [hpulse]
  cases rxPulse s.phase s with
  | wait => exact .next h
  | lead => exact .next ⟨rfl, h.origin, nofun⟩
  | trail t => exact .next ⟨rfl, h.origin, fun _ => rfl⟩
  | done w =>
    simp only [rxDone]
    split
    · exact .next ⟨rfl, fun _ => h.origin (by simp [hs]), nofun⟩
    · exact h.takeBit hs w

theorem SameButUnread.exec_stSynchigh (h : SameButUnread s (setUnread a b c s)) (hs : s.stage = .synchigh) :
    AlikeResults (execStSynchigh s) (execStSynchigh (setUnread a b c s)) := by
  have horigin : s.t0 = a := h.origin (by simp [hs])
  have hpoll : synchighPoll (setUnread a b c s) = synchighPoll s := by
    simp only [synchighPoll, horigin]
    rfl
  unfold execStSynchigh
  rw [hpoll]
  cases synchighPoll s with
  | hit t => exact .next ⟨rfl, fun _ => rfl, nofun⟩
  | timeout => exact .next ⟨rfl, fun _ => horigin, nofun⟩
  | pending => exact .next h

theorem SameButUnread.exec_stReset (h : SameButUnread s (setUnread a b c s)) (hs : s.stage = .reset) :
    AlikeResults (execStReset s) (execStReset (setUnread a b c s)) := by
  have horigin : s.t0 = a := h.origin (by simp [hs])
  have helapsed : elapsed (setUnread a b c s) = elapsed s := by
    simp only [elapsed, horigin]
    rfl
  unfold execStReset
  rw [helapsed]
  exact .next (.ite ⟨rfl, fun _ => horigin, h.stamp⟩ h)

/-- The stage step the two states select has the same effect on both. -/
theorem SameButUnread.exec_ownStep (h : SameButUnread s (setUnread a b c s)) {i : Instr} (hown : OwnStep s i) :
    AlikeResults (exec i s) (exec i (setUnread a b c s)) := by
  have horigin : s.stage ≠ .idle → s.t0 = a := h.origin
  cases hown with
  | idle => exact .next (.ite ⟨rfl, fun _ => rfl, nofun⟩ h)
  | reset hs => exact h.exec_stReset hs
  | release => exact .next ⟨rfl, fun _ => rfl, nofun⟩
  | synclowSkip hs hp => exact h.synclowStep hs hp
  | synclowLead hs hp => exact h.synclowStep hs hp
  | synclowTrail hs hp => exact h.synclowStep hs hp
  | synchigh hs => exact h.exec_stSynchigh hs
  | rxSkip hs hp => exact h.rxStep hs hp
  | rxLead hs hp => exact h.rxStep hs hp
  | rxTrail hs hp => exact h.rxStep hs hp
  | validate hs =>
    exact .next (.ite ⟨rfl, fun _ => horigin (by simp [hs]), h.stamp⟩ ⟨rfl, fun _ => horigin (by simp [hs]), nofun⟩)
  | done hs => exact .next ⟨rfl, nofun, h.stamp⟩

end Operations

/-! ### The step -/

/-- A stage step that runs is the one (`STAGE`, `PHASE`) select, wherever its word comes from. -/
theorem ownStep_of_selected {s : State} {i : Instr} (hd : decode (nextWord s) = .ok i)
    (hsel : selected s (nextWord s) = true) (hi : isStageStep i = true) : OwnStep s i := by
  rw [(selected_iff hd).1 hsel hi] at hd
  exact decode_decoderWord_iff.1 hd

/-- To take the next operation changes no register. -/
theorem taken_eq (s : State) : ∃ a n o, taken s = { s with agenda := a, turn := n, issued := o } := by
  cases hi : s.issued with
  | some w => exact ⟨s.agenda, s.turn, none, taken_of_issued hi⟩
  | none =>
    obtain ⟨a, n, htaken⟩ := taken_of_agents hi
    exact ⟨a, n, s.issued, htaken⟩

theorem taken_setUnread (a b c : Time) (s : State) : taken (setUnread a b c s) = setUnread a b c (taken s) := by
  cases hi : s.issued with
  | some w => simp only [taken, setUnread, hi]
  | none => cases ha : s.agenda <;> simp only [taken, setUnread, hi, ha]

theorem SameButUnread.step {s : State} {a b c : Time} (h : SameButUnread s (setUnread a b c s)) :
    AlikeResults (step s) (step (setUnread a b c s)) := by
  have hword : nextWord (setUnread a b c s) = nextWord s := rfl
  have htaken : SameButUnread (taken s) (setUnread a b c (taken s)) := by
    obtain ⟨g, n, o, ht⟩ := taken_eq s
    rw [ht]
    exact ⟨rfl, h.origin, h.stamp⟩
  intro t₁ ht₁
  obtain ⟨i, hd, hsel, hexec⟩ := step_next ht₁
  have hstep : Machine.step (setUnread a b c s) = exec i (setUnread a b c (taken s)) := by
    have hsel' : selected (setUnread a b c s) (nextWord s) = true := hsel
    simp only [Machine.step, hword, hd, hsel', if_true, taken_setUnread]
  rw [hstep]
  cases hi : isStageStep i with
  | false => exact htaken.exec_event hi t₁ hexec
  | true =>
    obtain ⟨g, n, o, ht⟩ := taken_eq s
    have hown : OwnStep (taken s) i :=
      (ownStep_of_selected hd hsel hi).congr (by rw [ht]) (by rw [ht])
    exact htaken.exec_ownStep hown t₁ hexec

/-- Settles O57: the second state is the first with other values in the three registers, and `SameButUnread.step`. -/
theorem unspecifiedRegistersAreNeverRead : Obligations.UnspecifiedRegistersAreNeverRead := by
  intro s₁ s₂ t₁ h hstep
  have hs₂ : setUnread s₂.t0 s₂.ts s₂.sample s₁ = s₂ := h.rest
  rw [← hs₂] at h ⊢
  exact h.step t₁ hstep

end Sys2Proof.Machine
end

section
/-! The DECODER's step in a legal state (R184, R270): a wait below the stage's limit, a rise of the rank, or the end of the
attempt. -/

namespace Sys2Proof.Machine

/-! ### The rank and the limit, stage by stage -/

section Stages

variable {s : State}

theorem rank_idle (h : s.stage = .idle) : rank s = 0 := by simp [rank, h]
theorem rank_reset (h : s.stage = .reset) : rank s = 1 := by simp [rank, h]
theorem rank_release (h : s.stage = .release) : rank s = 2 := by simp [rank, h]
theorem rank_synclow (h : s.stage = .synclow) : rank s = 3 + s.phase.index := by simp [rank, h]
theorem rank_synchigh (h : s.stage = .synchigh) : rank s = 6 := by simp [rank, h]
theorem rank_receivebits (h : s.stage = .receivebits) : rank s = 7 + 3 * s.bitIdx.toNat + s.phase.index := by
  simp [rank, h]
theorem rank_validate (h : s.stage = .validate) : rank s = 127 := by simp [rank, h]
theorem rank_done (h : s.stage = .done) : rank s = 128 := by simp [rank, h]

theorem stageLimit_reset (h : s.stage = .reset) : stageLimit s = resetLow s := by simp [stageLimit, h]
theorem stageLimit_synclow (h : s.stage = .synclow) : stageLimit s = Config.syncLowTimeoutUs := by simp [stageLimit, h]
theorem stageLimit_synchigh (h : s.stage = .synchigh) : stageLimit s = syncHighTimeout s := by simp [stageLimit, h]
theorem stageLimit_receivebits (h : s.stage = .receivebits) : stageLimit s = Config.bitTimeoutUs := by
  simp [stageLimit, h]

end Stages

theorem Phase.index_le {p : Phase} (h : p ≠ .reserved) : p.index ≤ 2 := by
  cases p with
  | reserved => exact absurd rfl h
  | _ => decide

theorem LegalState.rank_le {s : State} (h : LegalState s) : rank s ≤ 128 := by
  have hindex := Phase.index_le h.phaseLegal
  cases hs : s.stage with
  | idle => rw [rank_idle hs]; omega
  | reset => rw [rank_reset hs]; omega
  | release => rw [rank_release hs]; omega
  | synclow => rw [rank_synclow hs]; omega
  | synchigh => rw [rank_synchigh hs]; omega
  | receivebits => have := h.bitsBelow hs; rw [rank_receivebits hs]; omega
  | validate => rw [rank_validate hs]; omega
  | done => rw [rank_done hs]

theorem stage_ne_idle_of_rank_pos {s : State} (h : 0 < rank s) : s.stage ≠ .idle :=
  fun hs => by rw [rank_idle hs] at h; omega

/-! ### The outcomes of a DECODER step -/

/-- A stutter's reason: no command, or a wait whose budget is not used up. -/
def Waits (s : State) : Prop := (s.stage = .idle ∧ s.start = false) ∨ (s.stage ≠ .idle ∧ elapsed s < stageLimit s)

/-- What a DECODER step of a legal state does (R184). -/
inductive DecoderStep (s : State) : State → Prop where
  | wait (h : Waits s) : DecoderStep s s
  | begin (hs : s.stage = .idle) (hstart : s.start = true) : DecoderStep s (beginAttempt s)
  | rise {t : State} (hrun : s.stage.running = true) (h : rank s < rank t) : DecoderStep s t
  | finish (hs : s.stage = .done) : DecoderStep s (endAttempt s)

/-- The outcome of a step of a running stage: a wait below the stage's limit, or a rise of the rank. -/
def WaitsOrRises (s : State) (r : Result) : Prop :=
  (r = .next s ∧ elapsed s < stageLimit s) ∨ ∃ t, r = .next t ∧ rank s < rank t

section Measuring

variable {s : State} {ph : Phase}

/-- A `SYNCLOW` step waits below the limit of 100, or moves on. -/
theorem synclowStep_progress (hs : s.stage = .synclow) (hp : s.phase = ph) (hph : ph ≠ .reserved) :
    WaitsOrRises s (synclowStep ph s) := by
  have hindex := Phase.index_le hph
  have hrank : rank s = 3 + ph.index := by rw [rank_synclow hs, hp]
  have hdone : ∀ w, rank s < rank (synclowDone w s) := by
    intro w
    obtain ⟨-, hw⟩ | ⟨-, hw⟩ := synclowDone_cases w s <;> rw [hw, hrank]
    · rw [rank_done (failWith_stage _ _)]; omega
    · rw [rank_synchigh rfl]; omega
  unfold synclowStep synclowPulse
  obtain ⟨-, hpulse⟩ | ⟨-, -, hpulse⟩ | ⟨-, ht, hpulse⟩ := pulseStep_cases (lv := .low) (l := line s)
    Config.syncLowTimeoutUs hph s.t0 s.ts (nowOf s) <;> rw [hpulse]
  · refine .inr ?_
    cases ph with
    | skip => exact ⟨_, rfl, by rw [hrank, rank_synclow (by exact hs)]; exact Nat.lt_succ_self _⟩
    | lead => exact ⟨_, rfl, by rw [hrank, rank_synclow (by exact hs)]; exact Nat.lt_succ_self _⟩
    | trail => exact ⟨_, rfl, hdone _⟩
    | reserved => exact absurd rfl hph
  · exact .inr ⟨_, rfl, hdone 0⟩
  · exact .inl ⟨rfl, by rw [stageLimit_synclow hs]; exact ht⟩

/-- The end of a bit's measurement fails the attempt or stores one more bit: either way the rank rises. -/
theorem rxDone_progress (hs : s.stage = .receivebits) (hph : s.phase ≠ .reserved) (hb : s.bitIdx.toNat < 40) (w : Time) :
    ∃ t, rxDone w s = .next t ∧ rank s < rank t := by
  have hindex := Phase.index_le hph
  rw [rank_receivebits hs]
  obtain ⟨-, hd⟩ | ⟨-, -, m, -, hd⟩ | ⟨-, hfull, -⟩ := rxDone_cases w s
  · exact ⟨_, hd, by rw [rank_done (failWith_stage _ _)]; omega⟩
  · refine ⟨_, hd, ?_⟩
    by_cases h39 : s.bitIdx.toNat = 39
    · rw [rank_validate (by simp [h39])]; omega
    · rw [rank_receivebits (by simp [h39, hs])]
      have hnext : (s.bitIdx + 1).toNat = s.bitIdx.toNat + 1 := by bv_omega
      have hskip : Phase.skip.index = 0 := rfl
      simp only [hnext, hskip]
      omega
  · omega

/-- A `RECEIVEBITS` step waits below the limit of 140, or moves on. -/
theorem rxStep_progress (hs : s.stage = .receivebits) (hp : s.phase = ph) (hph : ph ≠ .reserved)
    (hb : s.bitIdx.toNat < 40) : WaitsOrRises s (rxStep ph s) := by
  have hdone := rxDone_progress hs (hp ▸ hph) hb
  have hrank : rank s = 7 + 3 * s.bitIdx.toNat + ph.index := by rw [rank_receivebits hs, hp]
  unfold rxStep rxPulse
  obtain ⟨-, hpulse⟩ | ⟨-, -, hpulse⟩ | ⟨-, ht, hpulse⟩ := pulseStep_cases (lv := .high) (l := line s)
    Config.bitTimeoutUs hph s.t0 s.ts (nowOf s) <;> rw [hpulse]
  · refine .inr ?_
    cases ph with
    | skip => exact ⟨_, rfl, by rw [hrank, rank_receivebits (by exact hs)]; exact Nat.lt_succ_self _⟩
    | lead => exact ⟨_, rfl, by rw [hrank, rank_receivebits (by exact hs)]; exact Nat.lt_succ_self _⟩
    | trail => exact hdone _
    | reserved => exact absurd rfl hph
  · exact .inr (hdone 0)
  · exact .inl ⟨rfl, by rw [stageLimit_receivebits hs]; exact ht⟩

end Measuring

theorem WaitsOrRises.decoderStep {s : State} {r : Result} (h : WaitsOrRises s r) (hrun : s.stage.running = true) :
    ∃ t, r = .next t ∧ DecoderStep s t := by
  obtain ⟨hr, hlt⟩ | ⟨t, hr, hrank⟩ := h
  · refine ⟨s, hr, .wait (.inr ⟨fun hs => ?_, hlt⟩)⟩
    rw [hs] at hrun
    cases hrun
  · exact ⟨t, hr, .rise hrun hrank⟩

theorem execStReset_progress {s : State} (hs : s.stage = .reset) : WaitsOrRises s (execStReset s) := by
  rw [WaitsOrRises, stageLimit_reset hs]
  unfold execStReset
  split
  · exact .inr ⟨_, rfl, by rw [rank_reset hs, rank_release rfl]; decide⟩
  · exact .inl ⟨rfl, BitVec.not_le.1 ‹_›⟩

theorem execStSynchigh_progress {s : State} (hs : s.stage = .synchigh) : WaitsOrRises s (execStSynchigh s) := by
  rw [WaitsOrRises, stageLimit_synchigh hs, rank_synchigh hs]
  obtain ⟨-, h⟩ | ⟨-, -, h⟩ | ⟨-, ht, h⟩ := execStSynchigh_cases s
  · exact .inr ⟨_, h, by rw [rank_receivebits rfl]; show 6 < 7 + _ + 0; omega⟩
  · exact .inr ⟨_, h, by rw [rank_done rfl]; decide⟩
  · exact .inl ⟨h, ht⟩

theorem execStRelease_progress {s : State} (hs : s.stage = .release) : WaitsOrRises s (execStRelease s) :=
  .inr ⟨_, rfl, by rw [rank_release hs, rank_synclow rfl]; exact Nat.lt_succ_self 2⟩

theorem execStValidate_progress {s : State} (hs : s.stage = .validate) : WaitsOrRises s (execStValidate s) := by
  refine .inr ⟨_, rfl, ?_⟩
  rw [rank_validate hs]
  split
  · rw [rank_done (publishFrame_stage s)]; decide
  · rw [rank_done (failWith_stage _ s)]; decide

/-- Every stage step of a legal state has one of the outcomes. -/
theorem LegalState.decoderStep {s : State} {i : Instr} (h : LegalState s) (hown : OwnStep s i) :
    ∃ t, exec i s = .next t ∧ DecoderStep s t := by
  have running : ∀ {st : Stage}, s.stage = st → st.running = true → s.stage.running = true := fun hs hst => hs ▸ hst
  cases hown with
  | idle hs =>
    cases hstart : s.start with
    | true => exact ⟨_, execStIdle_of_start hstart, .begin hs hstart⟩
    | false => exact ⟨s, congrArg Host.Outcome.next (if_neg (by simp [hstart])), .wait (.inl ⟨hs, hstart⟩)⟩
  | reset hs => exact (execStReset_progress hs).decoderStep (running hs rfl)
  | release hs => exact (execStRelease_progress hs).decoderStep (running hs rfl)
  | synclowSkip hs hp => exact (synclowStep_progress hs hp nofun).decoderStep (running hs rfl)
  | synclowLead hs hp => exact (synclowStep_progress hs hp nofun).decoderStep (running hs rfl)
  | synclowTrail hs hp => exact (synclowStep_progress hs hp nofun).decoderStep (running hs rfl)
  | synchigh hs => exact (execStSynchigh_progress hs).decoderStep (running hs rfl)
  | rxSkip hs hp => exact (rxStep_progress hs hp nofun (h.bitsBelow hs)).decoderStep (running hs rfl)
  | rxLead hs hp => exact (rxStep_progress hs hp nofun (h.bitsBelow hs)).decoderStep (running hs rfl)
  | rxTrail hs hp => exact (rxStep_progress hs hp nofun (h.bitsBelow hs)).decoderStep (running hs rfl)
  | validate hs => exact (execStValidate_progress hs).decoderStep (running hs rfl)
  | done hs => exact ⟨_, rfl, .finish hs⟩

theorem DecoderStep.advances {s t : State} (h : DecoderStep s t) :
    (t = s ∧ Waits s) ∨ rank s < rank t ∨ (s.stage = .done ∧ t.stage = .idle) := by
  cases h with
  | wait h => exact .inl ⟨rfl, h⟩
  | begin hs => exact .inr (.inl (by rw [rank_idle hs, rank_reset (beginAttempt_stage s)]; decide))
  | rise _ hrank => exact .inr (.inl hrank)
  | finish hs => exact .inr (.inr ⟨hs, endAttempt_stage s⟩)

/-- Settles O58: the outcomes of the DECODER's step; a stutter of a running attempt is below the stage's limit. -/
theorem attemptsAdvanceWithinTheirBudgets : Obligations.AttemptsAdvanceWithinTheirBudgets := by
  intro s rest h hagenda
  obtain ⟨i, hown⟩ := h.exists_ownStep
  have hlegal : LegalState { s with agenda := rest } := h.free h.cntBelow
  have hown' : OwnStep { s with agenda := rest } i := hown.congr rfl rfl
  obtain ⟨t, hexec, hstep⟩ := hlegal.decoderStep hown'
  have ht := hlegal.effect (.decoder hown') (exec_effect hexec)
  refine ⟨t, (step_of_agenda h.fromAgents hagenda (.decoder hown)).trans hexec, ht.rank_le, ?_⟩
  obtain ⟨heq, hwaits⟩ | hmoves := hstep.advances
  · refine ⟨.inl heq, fun hidle hlimit => ?_⟩
    obtain ⟨hs, -⟩ | ⟨-, hlt⟩ := hwaits
    · exact absurd hs hidle
    · exact absurd hlt (BitVec.not_lt.2 hlimit)
  · exact ⟨.inr hmoves, fun _ _ => hmoves⟩

end Sys2Proof.Machine
end

section
/-! One tick of the reference schedule (R272): the environment's moves, the DECODER's steps to a stutter, the service and the
tick of the clock. -/

namespace Sys2Proof.Machine

/-! ### Moves of a legal state -/

theorem LegalState.moveNow_eq {s : State} {m : Move} {i : Instr} (h : LegalState s) (hop : MoveOp s m i) :
    moveNow m s = exec i s :=
  moveNow_exec h.fromAgents (decode_word_iff.2 hop)

/-- A DECODER move that leads from a legal state to `t`, and what holds of it. -/
structure DecoderMove (s t : State) : Prop where
  move : moveNow .decoder s = .next t
  legal : LegalState t
  outcome : DecoderStep s t
  effect : ∃ i, OwnStep s i ∧ Effect i s t

theorem LegalState.decoderMove {s : State} (h : LegalState s) : ∃ t, DecoderMove s t := by
  obtain ⟨i, hown⟩ := h.exists_ownStep
  obtain ⟨t, hexec, hstep⟩ := h.decoderStep hown
  have heff := Machine.exec_effect hexec
  exact ⟨t, (h.moveNow_eq (.decoder hown)).trans hexec, h.effect (.decoder hown) heff, hstep, i, hown, heff⟩

/-- The registers of the clock, of the interrupt and of the sensor, which the DECODER does not write (R20). -/
structure AgentsKept (s t : State) : Prop where
  cnt : t.cnt = s.cnt
  ovf : t.ovf = s.ovf
  ovp : t.ovp = s.ovp
  ie : t.ie = s.ie
  sens : t.sens = s.sens
  par : t.par = s.par

theorem AgentsKept.refl (s : State) : AgentsKept s s := ⟨rfl, rfl, rfl, rfl, rfl, rfl⟩

theorem AgentsKept.trans {s t u : State} (h : AgentsKept s t) (h' : AgentsKept t u) : AgentsKept s u :=
  ⟨h'.cnt.trans h.cnt, h'.ovf.trans h.ovf, h'.ovp.trans h.ovp, h'.ie.trans h.ie, h'.sens.trans h.sens, h'.par.trans h.par⟩

theorem AgentsKept.nowOf_eq {s t : State} (h : AgentsKept s t) : nowOf t = nowOf s :=
  nowOf_congr h.cnt h.ovf h.ovp h.par

theorem OwnStep.isStageStep {s : State} {i : Instr} (h : OwnStep s i) : isStageStep i = true := by
  cases h <;> rfl

theorem Effect.agentsKept {i : Instr} {s t : State} (h : Effect i s t) (hi : isStageStep i = true) : AgentsKept s t := by
  cases h with
  | tickWrap | tickOn | service | drive | enable | reset => cases hi
  | answered hno => rw [hno] at hi; cases hi
  | _ => exact ⟨rfl, rfl, rfl, rfl, rfl, rfl⟩

theorem DecoderMove.agentsKept {s t : State} (h : DecoderMove s t) : AgentsKept s t := by
  obtain ⟨i, hown, heff⟩ := h.effect
  exact heff.agentsKept hown.isStageStep

/-- A legal state on which the DECODER's step is a stutter waits for a command, for a level, or for its time. -/
theorem LegalState.waits_of_stutter {s : State} (h : LegalState s) (hstutter : moveNow .decoder s = .next s) : Waits s := by
  obtain ⟨t, hdec⟩ := h.decoderMove
  cases hdec.move.symm.trans hstutter
  obtain ⟨-, hwaits⟩ | hrank | ⟨hdone, hidle⟩ := hdec.outcome.advances
  · exact hwaits
  · exact absurd hrank (lt_irrefl _)
  · rw [hdone] at hidle; cases hidle

/-! ### The DECODER's part of a tick -/

/-- How many DECODER steps other than stutters can follow (R184, log 21). -/
def toGo (s : State) : Nat := if s.stage = .idle then if s.start then 129 else 0 else 129 - rank s

theorem toGo_le (s : State) : toGo s ≤ 129 := by
  unfold toGo
  split_ifs <;> omega

theorem DecoderStep.toGo_lt {s t : State} (h : DecoderStep s t) (hs : LegalState s) (ht : LegalState t) (hne : t ≠ s) :
    toGo t < toGo s := by
  cases h with
  | wait => exact absurd rfl hne
  | begin hidle hstart =>
    have hrank := rank_reset (beginAttempt_stage s)
    simp [toGo, hidle, hstart, hrank]
  | rise hrun hrank =>
    have hmost := ht.rank_le
    have hidle : t.stage ≠ .idle := stage_ne_idle_of_rank_pos (by omega)
    simp only [toGo, hidle, (hs.running_facts hrun).1, if_false]
    omega
  | finish hdone =>
    have hstart : s.start = false := Bool.eq_false_iff.2 fun h => by simp [hs.startIdle h] at hdone
    simp [toGo, hstart, hdone, rank_done hdone]

/-- Settling with fuel enough ends on a legal state where the DECODER stutters, and keeps what every DECODER move keeps. -/
theorem LegalState.exists_settle {P : State → Prop} (hkeep : ∀ u v, LegalState u → P u → DecoderMove u v → P v) {fuel : Nat} :
    ∀ {s : State}, LegalState s → toGo s ≤ fuel → P s →
      ∃ u, settle fuel s = .next u ∧ moveNow .decoder u = .next u ∧ LegalState u ∧ P u := by
  induction fuel with
  | zero =>
    intro s h hfuel hP
    obtain ⟨t, hdec⟩ := h.decoderMove
    by_cases heq : t = s
    · exact ⟨s, rfl, heq ▸ hdec.move, h, hP⟩
    · have := hdec.outcome.toGo_lt h hdec.legal heq
      omega
  | succ fuel ih =>
    intro s h hfuel hP
    obtain ⟨t, hdec⟩ := h.decoderMove
    rw [settle_succ, hdec.move, andThen_next]
    by_cases heq : t = s
    · exact ⟨s, if_pos heq, heq ▸ hdec.move, h, hP⟩
    · rw [if_neg heq]
      have := hdec.outcome.toGo_lt h hdec.legal heq
      exact ih hdec.legal (by omega) (hkeep s t h hP hdec)

/-! ### The other agents' parts of a tick -/

/-- The state the environment leaves: the sensor's drive, and a command where the block is idle (R165, R183). -/
def afterEnvironment (drive command : Bool) (s : State) : State :=
  { s with sens := drive, start := s.start || (command && !s.busy) }

theorem LegalState.legal_afterEnvironment {s : State} (h : LegalState s) (drive command : Bool) :
    LegalState (afterEnvironment drive command s) := by
  have hdrive : LegalState { s with sens := drive } := h.free h.cntBelow
  unfold afterEnvironment
  cases hbusy : command && !s.busy with
  | false => rw [Bool.or_false]; exact hdrive
  | true =>
    rw [Bool.or_true]
    exact hdrive.command (by simp_all)

theorem LegalState.environment_eq {s : State} (h : LegalState s) (drive command : Bool) :
    environment drive command s = .next (afterEnvironment drive command s) := by
  have hsens : (if drive = s.sens then Host.Outcome.next s else moveNow (.drive drive) s) =
      .next { s with sens := drive } := by
    split
    · subst drive; rfl
    · exact h.moveNow_eq (.drive drive)
  have hdrive : LegalState { s with sens := drive } := h.free h.cntBelow
  unfold environment
  rw [hsens, andThen_next]
  cases command with
  | false => simp [afterEnvironment]
  | true =>
    rw [if_pos rfl, hdrive.moveNow_eq .command]
    show Host.Outcome.next (if s.busy then _ else _) = _
    cases hbusy : s.busy <;> simp [afterEnvironment, hbusy]

/-- The state the service leaves has no overflow pending, and the same clock value. -/
theorem LegalState.exists_service {s : State} (h : LegalState s) (hserve : s.ie = true ∨ s.ovp = false) :
    ∃ ovf, service s = .next { s with ovf := ovf, ovp := false } ∧ nowOf { s with ovf := ovf, ovp := false } = nowOf s := by
  unfold service
  cases hovp : s.ovp with
  | false =>
    rw [if_neg (by simp [serviceEnabled, hovp]), ← hovp]
    exact ⟨s.ovf, rfl, rfl⟩
  | true =>
    have hen : serviceEnabled s = true := by simpa [serviceEnabled, hovp] using hserve
    rw [if_pos hen, h.moveNow_eq .irq]
    exact ⟨s.ovf + 1, congrArg Host.Outcome.next (if_pos hen), nowOf_service hovp⟩

/-- A tick with no overflow pending. -/
theorem LegalState.exists_timer {s : State} (h : LegalState s) (hovp : s.ovp = false) :
    ∃ n ovp, moveNow .timer s = .next { s with cnt := n, ovp := ovp } ∧ LegalState { s with cnt := n, ovp := ovp } ∧
      nowOf { s with cnt := n, ovp := ovp } = nowOf s + BitVec.ofNat 32 s.par.usPerTick := by
  rw [h.moveNow_eq .timer]
  by_cases hwrap : s.cnt = s.par.period - 1
  · exact ⟨0, true, exec_tick_of_wraps hwrap, h.free (period_pos s.par), nowOf_tick_of_wraps hwrap hovp⟩
  · exact ⟨s.cnt + 1, s.ovp, exec_tick_of_counts hwrap, h.free (by have := h.cntBelow; omega), nowOf_tick_of_counts s⟩

/-! ### The whole tick -/

/-- A tick of the reference schedule from a legal state: the settled state between, which has what every DECODER move keeps, and
the last state, which differs from it in the clock's registers. -/
theorem LegalState.exists_referenceTick {P : State → Prop} (hkeep : ∀ u v, LegalState u → P u → DecoderMove u v → P v) {s : State}
    (h : LegalState s) (hserve : s.ie = true ∨ s.ovp = false) (drive command : Bool)
    (hP : P (afterEnvironment drive command s)) :
    ∃ u n ovf ovp, settle settleFuel (afterEnvironment drive command s) = .next u ∧
      moveNow .decoder u = .next u ∧ LegalState u ∧ P u ∧ AgentsKept (afterEnvironment drive command s) u ∧
      referenceTick drive command s = .next { u with cnt := n, ovf := ovf, ovp := ovp } ∧
      LegalState { u with cnt := n, ovf := ovf, ovp := ovp } ∧
      nowOf { u with cnt := n, ovf := ovf, ovp := ovp } = nowOf u + BitVec.ofNat 32 s.par.usPerTick := by
  have henv := h.legal_afterEnvironment drive command
  obtain ⟨u, hsettle, hstutter, hu, hPu, hkept⟩ :=
    LegalState.exists_settle (P := fun v => P v ∧ AgentsKept (afterEnvironment drive command s) v)
      (fun v w hv hPv hmove => ⟨hkeep v w hv hPv.1 hmove, hPv.2.trans hmove.agentsKept⟩)
      (fuel := settleFuel) henv (le_trans (toGo_le _) (by decide)) ⟨hP, .refl _⟩
  have hserve' : u.ie = true ∨ u.ovp = false := by rw [hkept.ie, hkept.ovp]; exact hserve
  obtain ⟨ovf, hservice, hnow⟩ := hu.exists_service hserve'
  have hserved : LegalState { u with ovf := ovf, ovp := false } := hu.free hu.cntBelow
  obtain ⟨n, ovp, htimer, ht, htick⟩ := hserved.exists_timer rfl
  refine ⟨u, n, ovf, ovp, hsettle, hstutter, hu, hPu, hkept, ?_, ht, ?_⟩
  · rw [referenceTick, h.environment_eq, andThen_next, hsettle, andThen_next, hservice, andThen_next]
    exact htimer
  · rw [← hnow, show s.par = u.par from hkept.par.symm]
    exact htick

/-- Settles O59: `LegalState.exists_referenceTick`, with nothing asked of the DECODER but what it keeps of the other agents' registers. -/
theorem referenceTickAdvancesTheClock : Obligations.ReferenceTickAdvancesTheClock := by
  intro drive command s h hserve
  obtain ⟨u, n, ovf, ovp, hsettle, hstutter, -, -, hkept, htick, ht, hnow⟩ :=
    LegalState.exists_referenceTick (P := fun _ => True) (fun _ _ _ _ _ => trivial) h hserve drive command trivial
  refine ⟨_, u, _, h.environment_eq drive command, hsettle, hstutter, htick, ht, ?_, hkept.sens, hkept.ie⟩
  rw [hnow, hkept.nowOf_eq]
  rfl

end Sys2Proof.Machine
end

section
/-! The duration of an attempt under the reference schedule (R184, R273): the budget used up so far, wait by wait. -/

namespace Sys2Proof.Machine

/-! ### The parameters in their ranges (R9) -/

theorem params_ranges {p : Config.Params} (h : p.wf = true) : 1 ≤ p.usPerTick ∧ 100 ≤ p.syncHighTimeoutUs ∧
    p.syncHighTimeoutUs ≤ 5000 ∧ 18000 ≤ p.resetLowUs ∧ p.resetLowUs ≤ 20000 := by
  simp only [Config.Params.wf, Bool.and_eq_true, decide_eq_true_eq] at h
  obtain ⟨⟨⟨-, htick⟩, hsync, hsync'⟩, hreset, hreset'⟩ := h
  exact ⟨htick, hsync, hsync', hreset, hreset'⟩

theorem resetLow_toNat {s : State} (h : s.par.wf = true) : (resetLow s).toNat = s.par.resetLowUs := by
  obtain ⟨-, -, -, -, hle⟩ := params_ranges h
  exact Nat.mod_eq_of_lt (by omega)

theorem syncHighTimeout_toNat {s : State} (h : s.par.wf = true) : (syncHighTimeout s).toNat = s.par.syncHighTimeoutUs := by
  obtain ⟨-, -, hle, -, -⟩ := params_ranges h
  exact Nat.mod_eq_of_lt (by omega)

/-! ### The waits of an attempt -/

/-- The stages whose origin `T0` is that of a wait in progress or just over. -/
def Stage.timed : Stage → Bool
  | .reset | .release | .synclow | .synchigh | .receivebits => true
  | .idle | .validate | .done => false

/-- The budget of the wait that `T0` is the origin of, in microseconds (R270). -/
def waitLimit (s : State) : Nat :=
  match s.stage with
  | .reset | .release => s.par.resetLowUs
  | .synclow => 100
  | .synchigh => s.par.syncHighTimeoutUs
  | .receivebits => 140
  | .idle | .validate | .done => 0

/-- The budgets of the waits before it, each with the tick by which it may overshoot (R273). -/
def waitsOver (s : State) : Nat :=
  match s.stage with
  | .synclow => s.par.resetLowUs + s.par.usPerTick
  | .synchigh => s.par.resetLowUs + 100 + 2 * s.par.usPerTick
  | .receivebits =>
    s.par.resetLowUs + 100 + s.par.syncHighTimeoutUs + 3 * s.par.usPerTick + s.bitIdx.toNat * (140 + s.par.usPerTick)
  | .idle | .reset | .release | .validate | .done => 0

theorem attemptBudget_eq (p : Config.Params) :
    attemptBudget p = p.resetLowUs + 100 + p.syncHighTimeoutUs + 3 * p.usPerTick + 40 * (140 + p.usPerTick) := by
  have hwaits : attemptWaits = 43 := rfl
  have hlow : Config.syncLowTimeoutUs.toNat = 100 := rfl
  have hbit : Config.bitTimeoutUs.toNat = 140 := rfl
  have hbits : Config.nBits = 40 := rfl
  rw [attemptBudget, hwaits, hlow, hbit, hbits]
  ring

/-- The waits before the one in progress, and that one, fit the attempt's budget. -/
theorem LegalState.waits_le_budget {s : State} (h : LegalState s) (ht : s.stage.timed = true) :
    waitsOver s + waitLimit s + s.par.usPerTick ≤ attemptBudget s.par := by
  rw [attemptBudget_eq]
  cases hs : s.stage with
  | idle | validate | done => rw [hs] at ht; cases ht
  | receivebits =>
    have hb : s.bitIdx.toNat * (140 + s.par.usPerTick) ≤ 39 * (140 + s.par.usPerTick) :=
      Nat.mul_le_mul_right _ (by have := h.bitsBelow hs; omega)
    simp only [waitsOver, waitLimit, hs]
    omega
  | _ => simp only [waitsOver, waitLimit, hs]; omega

theorem LegalState.waitLimit_le {s : State} (h : LegalState s) : waitLimit s ≤ 20000 := by
  obtain ⟨-, -, hsync, -, hreset⟩ := params_ranges h.parWf
  unfold waitLimit
  split <;> omega

/-- Below its limit, a stage that is not idle waits with the budget of its wait. -/
theorem LegalState.elapsed_lt_waitLimit {s : State} (h : LegalState s) (hidle : s.stage ≠ .idle)
    (hlt : elapsed s < stageLimit s) : s.stage.timed = true ∧ (elapsed s).toNat < waitLimit s := by
  have hnat : (elapsed s).toNat < (stageLimit s).toNat := hlt
  cases hs : s.stage with
  | idle => exact absurd hs hidle
  | reset =>
    rw [stageLimit_reset hs, resetLow_toNat h.parWf] at hnat
    exact ⟨rfl, by simpa [waitLimit, hs] using hnat⟩
  | synclow =>
    rw [stageLimit_synclow hs] at hnat
    exact ⟨rfl, by simp only [waitLimit, hs]; exact hnat⟩
  | synchigh =>
    rw [stageLimit_synchigh hs, syncHighTimeout_toNat h.parWf] at hnat
    exact ⟨rfl, by simpa [waitLimit, hs] using hnat⟩
  | receivebits =>
    rw [stageLimit_receivebits hs] at hnat
    exact ⟨rfl, by simp only [waitLimit, hs]; exact hnat⟩
  | release | validate | done => simp [stageLimit, hs] at hnat

/-! ### The ticks of an attempt against its budget -/

/-- After `n` ticks of the attempt: their time is in the waits over and in the one in progress, which is less than a tick late. -/
structure WithinWait (n : Nat) (s : State) : Prop where
  used : n * s.par.usPerTick ≤ waitsOver s + (elapsed s).toNat
  late : (elapsed s).toNat < waitLimit s + s.par.usPerTick
  whole : (elapsed s).toNat = 0 ∨ s.par.usPerTick ≤ (elapsed s).toNat

theorem WithinWait.lt_budget {n : Nat} {s : State} (h : WithinWait n s) (hs : LegalState s) (ht : s.stage.timed = true) :
    n * s.par.usPerTick < attemptBudget s.par := by
  have hle := hs.waits_le_budget ht
  have hused := h.used
  have hlate := h.late
  omega

/-- A wait that begins where another ends has that one's budget before it. -/
theorem WithinWait.next_wait {n : Nat} {s t : State} (h : WithinWait n s) (hpar : t.par = s.par) (h0 : t.t0 = nowOf t)
    (hu : 1 ≤ s.par.usPerTick) (hover : waitsOver s + waitLimit s + s.par.usPerTick ≤ waitsOver t) : WithinWait n t := by
  have hzero : (elapsed t).toNat = 0 := by simp [elapsed, h0]
  have hused := h.used
  have hlate := h.late
  exact ⟨by rw [hpar]; omega, by rw [hpar]; omega, .inl hzero⟩

/-- What holds after `n` ticks of an attempt, and all through the DECODER's part of the next. -/
structure OnBudget (n : Nat) (s : State) : Prop where
  budget : n * s.par.usPerTick < attemptBudget s.par
  wait : s.stage.timed = true → WithinWait n s
  ended : s.stage = .idle → s.start = false ∧ s.donef = true

/-- A stage step that ends in a timed stage goes on in its wait or begins the next one. -/
theorem OnBudget.effect_wait {n : Nat} {s t : State} {i : Instr} (h : OnBudget n s) (hs : LegalState s) (hown : OwnStep s i)
    (heff : Effect i s t) (ht : t.stage.timed = true) : WithinWait n t := by
  have hu := (params_ranges hs.parWf).1
  have hstage : s.stage = stageOf i := hown.stage_eq
  cases heff with
  | idleWait | resetWait | synclowWait | synchighWait | rxWait => exact h.wait ht
  | idleBegin hstart => simp [(h.ended hstage).1] at hstart
  | resetEnd =>
    have hst : s.stage = .reset := hstage
    obtain ⟨hused, hlate, hwhole⟩ := h.wait (by rw [hst]; rfl)
    simp only [waitsOver, waitLimit, hst] at hused hlate
    exact ⟨hused, hlate, hwhole⟩
  | release =>
    have hst : s.stage = .release := hstage
    exact (h.wait (by rw [hst]; rfl)).next_wait rfl rfl hu (by simp [waitsOver, waitLimit, hst])
  | synclowLead | synclowTrail | rxLead | rxTrail =>
    obtain ⟨hused, hlate, hwhole⟩ := h.wait ht
    exact ⟨hused, hlate, hwhole⟩
  | synclowPass =>
    have hst : s.stage = .synclow := hstage
    exact (h.wait (by rw [hst]; rfl)).next_wait rfl rfl hu (by simp only [waitsOver, waitLimit, hst]; omega)
  | synchighEnd =>
    have hst : s.stage = .synchigh := hstage
    exact (h.wait (by rw [hst]; rfl)).next_wait rfl rfl hu (by simp only [waitsOver, waitLimit, hst]; omega)
  | rxBit _ hb =>
    have hst : s.stage = .receivebits := hstage
    by_cases h39 : s.bitIdx.toNat = 39
    · simp [h39, Stage.timed] at ht
    · refine (h.wait (by rw [hst]; rfl)).next_wait rfl (if_neg h39) hu ?_
      have hnext : (s.bitIdx + 1).toNat = s.bitIdx.toNat + 1 := by bv_omega
      simp only [waitsOver, waitLimit, hst, h39, if_false, hnext, Nat.add_mul]
      omega
  | synclowFail | synchighFail | rxFail | valid | invalid | done => cases ht
  | answered hno => rw [hown.isStageStep] at hno; cases hno
  | outputLow | inputPullup | tickWrap | tickOn | service | serviceOff | drive | command | commandIgnored | enable | reset =>
    cases hown

/-- Every DECODER move keeps an attempt on its budget: no time passes in it. -/
theorem OnBudget.decoderMove {n : Nat} {s t : State} (hs : LegalState s) (h : OnBudget n s) (hmove : DecoderMove s t) :
    OnBudget n t := by
  obtain ⟨i, hown, heff⟩ := hmove.effect
  refine ⟨by rw [hmove.agentsKept.par]; exact h.budget, h.effect_wait hs hown heff, fun hidle => ?_⟩
  cases hmove.outcome with
  | wait => exact h.ended hidle
  | begin => cases hidle
  | rise _ hrank => exact absurd hidle (stage_ne_idle_of_rank_pos (by omega))
  | finish hdone =>
    exact ⟨Bool.eq_false_iff.2 fun hstart => by simp [hs.startIdle hstart] at hdone, rfl⟩

/-! ### One tick -/

/-- The elapsed time one tick later, where it does not wrap. -/
theorem elapsed_toNat_of_tick {s t : State} (h0 : t.t0 = s.t0)
    (hnow : nowOf t = nowOf s + BitVec.ofNat 32 s.par.usPerTick)
    (hfit : (elapsed s).toNat + s.par.usPerTick < 2 ^ 32) :
    (elapsed t).toNat = (elapsed s).toNat + s.par.usPerTick := by
  have hadd : elapsed t = elapsed s + BitVec.ofNat 32 s.par.usPerTick := by
    rw [elapsed, elapsed, h0, hnow, sub_add_eq_add_sub]
  rw [hadd, BitVec.toNat_add, BitVec.toNat_ofNat, Nat.mod_eq_of_lt (show s.par.usPerTick < 2 ^ 32 by omega),
    Nat.mod_eq_of_lt hfit]

/-- A running attempt on its budget after `n` ticks, with the overflow service enabled. -/
structure AtTick (n : Nat) (s : State) : Prop where
  legal : LegalState s
  enabled : s.ie = true
  running : s.stage ≠ .idle
  onBudget : OnBudget n s

/-- A settled attempt whose wait has not run out is on its budget after the tick: its elapsed time does not wrap. -/
theorem WithinWait.atTick {n k : Nat} {ovf : BitVec 32} {ovp : Bool} {u : State} (h : WithinWait n u) (hu : LegalState u)
    (htick : u.par.usPerTick < 2 ^ 32) (hie : u.ie = true) (htimed : u.stage.timed = true)
    (hlt : (elapsed u).toNat < waitLimit u) (ht : LegalState { u with cnt := k, ovf := ovf, ovp := ovp })
    (hnow : nowOf { u with cnt := k, ovf := ovf, ovp := ovp } = nowOf u + BitVec.ofNat 32 u.par.usPerTick) :
    AtTick (n + 1) { u with cnt := k, ovf := ovf, ovp := ovp } := by
  have hidle : u.stage ≠ .idle := fun hs => by rw [hs] at htimed; cases htimed
  have hused := h.used
  have hfit : (elapsed u).toNat + u.par.usPerTick < 2 ^ 32 := by
    have hlimit := hu.waitLimit_le
    obtain hzero | hle := h.whole <;> omega
  have helapsed := elapsed_toNat_of_tick (s := u) (t := { u with cnt := k, ovf := ovf, ovp := ovp }) rfl hnow hfit
  have hwait : WithinWait (n + 1) { u with cnt := k, ovf := ovf, ovp := ovp } := by
    refine ⟨?_, ?_, ?_⟩ <;> rw [helapsed]
    · show (n + 1) * u.par.usPerTick ≤ waitsOver u + _
      rw [Nat.add_mul]
      omega
    · show _ < waitLimit u + u.par.usPerTick
      omega
    · exact .inr (Nat.le_add_left _ _)
  exact ⟨ht, hie, hidle, hwait.lt_budget ht htimed, fun _ => hwait, fun hs => absurd hs hidle⟩

/-- One reference tick of a running attempt: it ends in that tick, or is on its budget after it. -/
theorem AtTick.exists_referenceTick {n : Nat} {s : State} (h : AtTick n s) (hu : s.par.usPerTick < 2 ^ 32)
    (drive command : Bool) :
    ∃ t, referenceTick drive command s = .next t ∧ t.par = s.par ∧
      ((t.busy = false ∧ t.donef = true) ∨ AtTick (n + 1) t) := by
  have henv : OnBudget n (afterEnvironment drive command s) :=
    ⟨h.onBudget.budget, fun ht => by obtain ⟨hused, hlate, hwhole⟩ := h.onBudget.wait ht; exact ⟨hused, hlate, hwhole⟩,
      fun hidle => absurd hidle h.running⟩
  obtain ⟨u, k, ovf, ovp, -, hstutter, hu', hbudget, hkept, htick, ht, hnow⟩ :=
    h.legal.exists_referenceTick (P := OnBudget n) (fun _ _ hv hP hmove => hP.decoderMove hv hmove) (.inl h.enabled)
      drive command henv
  have hpar : u.par = s.par := hkept.par
  refine ⟨_, htick, hpar, ?_⟩
  obtain ⟨hidle, -⟩ | ⟨hidle, hlt⟩ := hu'.waits_of_stutter hstutter
  · exact .inl ⟨Bool.eq_false_iff.2 fun hb => hu'.busyIff.1 hb hidle, (hbudget.ended hidle).2⟩
  · obtain ⟨htimed, hlt⟩ := hu'.elapsed_lt_waitLimit hidle hlt
    exact .inr ((hbudget.wait htimed).atTick hu' (hpar ▸ hu) (hkept.ie.trans h.enabled) htimed hlt ht (hpar ▸ hnow))

/-! ### The whole attempt -/

/-- A running attempt on its budget ends within it: every tick uses up some of what is left. -/
theorem AtTick.exists_end (drive command : Nat → Bool) {d : Nat} : ∀ {k n : Nat} {s : State}, AtTick n s →
    s.par.usPerTick < 2 ^ 32 → attemptBudget s.par ≤ n + d →
    ∃ m t, referenceRun drive command k (m + 1) s = .next t ∧ t.busy = false ∧ t.donef = true ∧
      (n + m) * s.par.usPerTick < attemptBudget s.par := by
  induction d with
  | zero =>
    intro k n s h _ hleft
    have hu := (params_ranges h.legal.parWf).1
    have hn : n ≤ n * s.par.usPerTick := Nat.le_mul_of_pos_right n hu
    have hbudget := h.onBudget.budget
    omega
  | succ d ih =>
    intro k n s h hu hleft
    obtain ⟨t, htick, hpar, ⟨hbusy, hdone⟩ | hnext⟩ := h.exists_referenceTick hu (drive k) (command k)
    · exact ⟨0, t, by rw [referenceRun, htick]; rfl, hbusy, hdone, h.onBudget.budget⟩
    · obtain ⟨m, v, hrun, hbusy, hdone, hbudget⟩ := ih (k := k + 1) hnext (hpar ▸ hu) (by rw [hpar]; omega)
      refine ⟨m + 1, v, by rw [referenceRun, htick]; exact hrun, hbusy, hdone, ?_⟩
      rw [hpar] at hbudget
      rwa [← Nat.add_assoc, Nat.add_right_comm]

/-- What the DECODER's part of the accepting tick goes through: the command, then the start pulse, begun just now. -/
def Accepting (s : State) : Prop := (s.stage = .idle ∧ s.start = true) ∨ (s.stage = .reset ∧ s.t0 = nowOf s)

theorem LegalState.move_stReset_of_early {s : State} (h : LegalState s) (hs : s.stage = .reset)
    (hlt : elapsed s < resetLow s) : moveNow .decoder s = .next s := by
  have hown : OwnStep s .stReset := .reset hs (h.phaseSkip (by simp [hs]) (by simp [hs]))
  rw [h.moveNow_eq (.decoder hown)]
  exact congrArg Host.Outcome.next (if_neg (BitVec.not_le.2 hlt))

/-- The start pulse takes at least 18000 µs: none has passed in the accepting tick. -/
theorem LegalState.elapsed_lt_resetLow {s : State} (h : LegalState s) (h0 : s.t0 = nowOf s) :
    (elapsed s).toNat = 0 ∧ elapsed s < resetLow s := by
  have hzero : (elapsed s).toNat = 0 := by simp [elapsed, h0]
  obtain ⟨-, -, -, hreset, -⟩ := params_ranges h.parWf
  refine ⟨hzero, show (elapsed s).toNat < (resetLow s).toNat from ?_⟩
  rw [hzero, resetLow_toNat h.parWf]
  omega

theorem Accepting.decoderMove {s t : State} (hs : LegalState s) (h : Accepting s) (hmove : DecoderMove s t) :
    Accepting t := by
  obtain ⟨hidle, hstart⟩ | ⟨hreset, h0⟩ := h
  · cases hmove.outcome with
    | wait => exact .inl ⟨hidle, hstart⟩
    | begin => exact .inr ⟨rfl, rfl⟩
    | rise hrun => rw [hidle] at hrun; cases hrun
    | finish hdone => rw [hidle] at hdone; cases hdone
  · cases (hs.move_stReset_of_early hreset (hs.elapsed_lt_resetLow h0).2).symm.trans hmove.move
    exact .inr ⟨hreset, h0⟩

/-- The accepting tick of an idle block with a command: the attempt is running, one tick old, when it ends. -/
theorem LegalState.exists_acceptingTick {s : State} (h : LegalState s) (hie : s.ie = true) (hu : s.par.usPerTick < 2 ^ 32)
    (hidle : s.stage = .idle) {command : Bool} (hcommand : s.start = true ∨ command = true) (drive : Bool) :
    ∃ t, referenceTick drive command s = .next t ∧ t.par = s.par ∧ AtTick 1 t := by
  have hbusy : s.busy = false := Bool.eq_false_iff.2 fun hb => h.busyIff.1 hb hidle
  have hstart : (afterEnvironment drive command s).start = true := by simpa [afterEnvironment, hbusy] using hcommand
  obtain ⟨u, k, ovf, ovp, -, hstutter, hu', haccept, hkept, htick, ht, hnow⟩ :=
    h.exists_referenceTick (P := Accepting) (fun _ _ hv hP hmove => hP.decoderMove hv hmove) (.inl hie) drive command
      (.inl ⟨hidle, hstart⟩)
  have hpar : u.par = s.par := hkept.par
  refine ⟨_, htick, hpar, ?_⟩
  obtain ⟨hidle', hstart'⟩ | ⟨hreset, h0⟩ := haccept
  · obtain ⟨-, hno⟩ | ⟨hne, -⟩ := hu'.waits_of_stutter hstutter
    · rw [hno] at hstart'; cases hstart'
    · exact absurd hidle' hne
  · obtain ⟨hzero, -⟩ := hu'.elapsed_lt_resetLow h0
    obtain ⟨hone, -, -, hlow, -⟩ := params_ranges hu'.parWf
    have hlimit : waitLimit u = u.par.resetLowUs := by simp [waitLimit, hreset]
    have hwait : WithinWait 0 u := ⟨by simp, by omega, .inl hzero⟩
    exact hwait.atTick hu' (hpar ▸ hu) (hkept.ie.trans hie) (by rw [hreset]; rfl) (by omega) ht (hpar ▸ hnow)

/-- R184, R273: under the reference schedule an attempt ends within its budget. -/
theorem attempt_ends_under_reference (drive command : Nat → Bool) (k : Nat) {s : State} (h : LegalState s)
    (hie : s.ie = true) (hu : s.par.usPerTick < 2 ^ 32) (hidle : s.stage = .idle)
    (hcommand : s.start = true ∨ command k = true) :
    ∃ (n : Nat) (s₁ t : State), referenceTick (drive k) (command k) s = .next s₁ ∧ s₁.busy = true ∧ s₁.donef = false ∧
      referenceRun drive command k (n + 1) s = .next t ∧ t.busy = false ∧ t.donef = true ∧
      n * s.par.usPerTick < attemptBudget s.par := by
  obtain ⟨s₁, htick, hpar, hat⟩ := h.exists_acceptingTick hie hu hidle hcommand (drive k)
  obtain ⟨m, t, hrun, hbusy, hdone, hbudget⟩ :=
    hat.exists_end drive command (k := k + 1) (d := attemptBudget s.par) (hpar ▸ hu) (by rw [hpar]; omega)
  refine ⟨m + 1, s₁, t, htick, hat.legal.busyIff.2 hat.running, ?_, by rw [referenceRun, htick]; exact hrun, hbusy, hdone,
    ?_⟩
  · exact Bool.eq_false_iff.2 fun hd => hat.running (hat.legal.doneIdle hd)
  · rwa [hpar, Nat.add_comm] at hbudget

end Sys2Proof.Machine
end

section
/-! The moves of the other agents (R20, R183): the registers they write, and what they do to the clock. -/

namespace Sys2Proof.Machine

/-- An event of another agent but `HW_RESET` writes the clock, `IE`, `SENS`, and `START` in an idle block (R20, R183). -/
theorem exec_agent_frame {s t : State} {m : Move} {i : Instr} (hop : MoveOp s m i) (hm : m ≠ .decoder) (hr : m ≠ .reset)
    (h : exec i s = .next t) :
    t = { s with cnt := t.cnt, ovf := t.ovf, ovp := t.ovp, ie := t.ie, sens := t.sens, start := t.start } ∧
      (s.busy = true → t.start = s.start) := by
  cases hop with
  | decoder => exact absurd rfl hm
  | reset => exact absurd rfl hr
  | timer =>
    by_cases hwrap : s.cnt = s.par.period - 1
    · cases (exec_tick_of_wraps hwrap).symm.trans h; exact ⟨rfl, fun _ => rfl⟩
    · cases (exec_tick_of_counts hwrap).symm.trans h; exact ⟨rfl, fun _ => rfl⟩
  | irq =>
    simp only [exec, execOvfService] at h
    split at h <;> cases h <;> exact ⟨rfl, fun _ => rfl⟩
  | drive v => cases h; exact ⟨rfl, fun _ => rfl⟩
  | command =>
    simp only [exec, execGetReading] at h
    split at h <;> cases h
    · exact ⟨rfl, fun _ => rfl⟩
    · exact ⟨rfl, fun hbusy => absurd hbusy ‹_›⟩
  | enable v => cases h; exact ⟨rfl, fun _ => rfl⟩

/-- Settles O45: `exec_agent_frame` on the state with the move taken. -/
theorem noOtherAgentDisturbsAnAttempt : Obligations.NoOtherAgentDisturbsAnAttempt := by
  intro s t m rest hi ha hm hr hstep
  obtain ⟨i, hop, hexec⟩ := step_next_of_agenda hi ha hstep
  exact exec_agent_frame (hop.congr (s' := { s with agenda := rest }) rfl rfl) hm hr hexec

theorem ticksIn_of_moveOp {s : State} {m : Move} {i : Instr} (h : MoveOp s m i) :
    ticksIn [i] = if m = .timer then 1 else 0 := by
  cases h with
  | decoder h => cases h <;> rfl
  | _ => rfl

theorem overflowLost_of_moveOp {s : State} {m : Move} {i : Instr} (h : MoveOp s m i)
    (hlost : m = .timer → overflowLost .tick s = false) : overflowLost i s = false := by
  cases h with
  | timer => exact hlost rfl
  | decoder h => cases h <;> rfl
  | _ => rfl

end Sys2Proof.Machine
end

section
/-! The end of an attempt under a fair schedule (R184): no move of another agent disturbs it, every wait runs out before its
elapsed time can wrap, and the rank rises until `ST_DONE`. -/

namespace Sys2Proof.Machine

/-! ### The premises on a schedule -/

/-- What R184 asks of a schedule from a state on, with the bound on the distance of the polls (log 22). -/
structure GoodSchedule (schedule : Nat → Move) (lag : Nat) (s : State) : Prop where
  fair : FairSchedule schedule
  polls : LagAtMost lag schedule
  noReset : ∀ n, schedule n ≠ .reset
  noneLost : NoOverflowLostAlong schedule s
  fits : s.par.resetLowUs + lag * s.par.usPerTick ≤ 2 ^ 32

/-- The attempt is over and has a result (R179, R44 (g)). -/
def AttemptOver (t : State) : Prop :=
  t.stage = .idle ∧ t.busy = false ∧ t.donef = true ∧ readingOf t ≠ .failed .unknown

/-- An attempt in progress after `n` moves of a schedule from `s`. -/
structure Attempt (schedule : Nat → Move) (s : State) (n : Nat) (t : State) : Prop where
  reached : runSchedule schedule 0 n s = .next t
  legal : LegalState t
  running : t.stage ≠ .idle
  par : t.par = s.par

/-- Some moves on, the attempt is over or its rank above `r`. -/
def Outruns (schedule : Nat → Move) (s : State) (r : Nat) : Prop :=
  ∃ n t, (runSchedule schedule 0 n s = .next t ∧ AttemptOver t) ∨ (Attempt schedule s n t ∧ r < rank t)

section Schedule

variable {schedule : Nat → Move} {lag : Nat} {s : State}

theorem run_succ {n : Nat} {t u : State} (h : runSchedule schedule 0 n s = .next t)
    (hmove : moveNow (schedule n) t = .next u) : runSchedule schedule 0 (n + 1) s = .next u := by
  rw [runSchedule_succ, h, andThen_next, Nat.zero_add]
  exact hmove

/-! ### One move of the schedule -/

/-- One move during a wait: the wait goes on, and its elapsed time is a tick more if the move is the TIMER's. -/
structure WaitMove (m : Move) (t u : State) : Prop where
  rank_eq : rank u = rank t
  limit_eq : stageLimit u = stageLimit t
  elapsed_eq : elapsed u = elapsed t + BitVec.ofNat 32 ((if m = .timer then 1 else 0) * t.par.usPerTick)
  early : m = .decoder → elapsed t < stageLimit t

/-- A DECODER move of a running attempt moves it on, or waits below the stage's limit. -/
theorem Attempt.decoder {n : Nat} {t : State} (h : Attempt schedule s n t) (hm : schedule n = .decoder) :
    Outruns schedule s (rank t) ∨ ∃ u, Attempt schedule s (n + 1) u ∧ WaitMove (schedule n) t u := by
  obtain ⟨u, hdec⟩ := h.legal.decoderMove
  have hreached := run_succ h.reached (u := u) (hm ▸ hdec.move)
  have hpar : u.par = s.par := hdec.agentsKept.par.trans h.par
  cases hdec.outcome with
  | wait hwaits =>
    obtain ⟨hidle, -⟩ | ⟨-, hlt⟩ := hwaits
    · exact absurd hidle h.running
    · exact .inr ⟨t, ⟨hreached, h.legal, h.running, hpar⟩, rfl, rfl, by simp [hm], fun _ => hlt⟩
  | begin hidle => exact absurd hidle h.running
  | rise _ hrank =>
    exact .inl ⟨n + 1, u, .inr ⟨⟨hreached, hdec.legal, stage_ne_idle_of_rank_pos (by omega), hpar⟩, hrank⟩⟩
  | finish =>
    exact .inl ⟨n + 1, _, .inl ⟨hreached, rfl, rfl, rfl, hdec.legal.readingOf_ne_unknown rfl⟩⟩

/-- A move of another agent leaves the wait as it is, but for the time that passes. -/
theorem Attempt.agent (hgood : GoodSchedule schedule lag s) {n : Nat} {t : State} (h : Attempt schedule s n t)
    (hm : schedule n ≠ .decoder) : ∃ u, Attempt schedule s (n + 1) u ∧ WaitMove (schedule n) t u := by
  obtain ⟨i, hop⟩ := h.legal.exists_moveOp (schedule n)
  obtain ⟨u, hexec, -, hu⟩ := h.legal.exec_effect hop
  have hmove : moveNow (schedule n) t = .next u := (h.legal.moveNow_eq hop).trans hexec
  have hreset : i ≠ .hwReset := by
    rintro rfl
    have hr := hgood.noReset n
    generalize schedule n = m at hop hr
    cases hop with
    | decoder hown => cases hown
    | reset => exact hr rfl
  have hlost := overflowLost_of_moveOp hop fun htimer => hgood.noneLost n t h.reached htimer
  obtain ⟨-, hnow⟩ := exec_now h.legal.cntBelow hreset hlost hexec
  rw [ticksIn_of_moveOp hop] at hnow
  obtain ⟨hframe, -⟩ := exec_agent_frame hop hm (hgood.noReset n) hexec
  have hstage : u.stage = t.stage := by rw [hframe]
  have hpar : u.par = t.par := by rw [hframe]
  refine ⟨u, ⟨run_succ h.reached hmove, hu, hstage ▸ h.running, hpar.trans h.par⟩, ?_, ?_, ?_, fun h => absurd h hm⟩
  · rw [hframe]; rfl
  · rw [hframe]; rfl
  · have h0 : u.t0 = t.t0 := by rw [hframe]
    rw [elapsed, elapsed, h0, hnow, sub_add_eq_add_sub]

theorem Attempt.move (hgood : GoodSchedule schedule lag s) {n : Nat} {t : State} (h : Attempt schedule s n t) :
    Outruns schedule s (rank t) ∨ ∃ u, Attempt schedule s (n + 1) u ∧ WaitMove (schedule n) t u := by
  by_cases hm : schedule n = .decoder
  · exact h.decoder hm
  · exact .inr (h.agent hgood hm)

/-! ### A wait whose elapsed time cannot wrap -/

/-- The last poll found less than the limit elapsed, and only the ticks since then have been added to that. -/
def Polled (schedule : Nat → Move) (n : Nat) (t : State) : Prop :=
  ∃ j ≤ n, (∀ i, j ≤ i → i < n → schedule i ≠ .decoder) ∧
    (elapsed t).toNat < (stageLimit t).toNat + ticksBetween schedule j n * t.par.usPerTick

theorem LegalState.stageLimit_le {t : State} (h : LegalState t) : (stageLimit t).toNat ≤ t.par.resetLowUs := by
  obtain ⟨-, -, hsync, hreset, -⟩ := params_ranges h.parWf
  have hlow : Config.syncLowTimeoutUs.toNat = 100 := rfl
  have hbit : Config.bitTimeoutUs.toNat = 140 := rfl
  cases hs : t.stage with
  | reset => rw [stageLimit_reset hs, resetLow_toNat h.parWf]
  | synclow => rw [stageLimit_synclow hs]; omega
  | synchigh => rw [stageLimit_synchigh hs, syncHighTimeout_toNat h.parWf]; omega
  | receivebits => rw [stageLimit_receivebits hs]; omega
  | idle | release | validate | done => simp [stageLimit, hs]

/-- A move during a polled wait adds its tick to the elapsed time without a wrap, and leaves the wait polled. -/
theorem Polled.move (hgood : GoodSchedule schedule lag s) {n : Nat} {t u : State} (h : Polled schedule n t)
    (ht : Attempt schedule s n t) (hu : Attempt schedule s (n + 1) u) (hmove : WaitMove (schedule n) t u) :
    Polled schedule (n + 1) u ∧
      (elapsed u).toNat = (elapsed t).toNat + (if schedule n = .timer then 1 else 0) * t.par.usPerTick := by
  have hpar : u.par = t.par := hu.par.trans ht.par.symm
  by_cases hm : schedule n = .decoder
  · have helapsed : elapsed u = elapsed t := by simpa [hm] using hmove.elapsed_eq
    refine ⟨⟨n + 1, le_rfl, fun i hi hi' => by omega, ?_⟩, by simp [helapsed, hm]⟩
    rw [helapsed, hmove.limit_eq, ticksBetween_self, Nat.zero_mul, Nat.add_zero]
    exact hmove.early hm
  · obtain ⟨j, hj, hquiet, hlt⟩ := h
    have hquiet' : ∀ i, j ≤ i → i < n + 1 → schedule i ≠ .decoder := by
      intro i hi hi'
      obtain rfl | hlt := Nat.eq_or_lt_of_le (Nat.le_of_lt_succ hi')
      · exact hm
      · exact hquiet i hi hlt
    have hlag : ticksBetween schedule j (n + 1) ≤ lag := by
      by_contra hmore
      obtain ⟨i, hi, hi', hdec⟩ := hgood.polls j (n + 1) (not_le.1 hmore)
      exact hquiet' i hi hi' hdec
    have hsum : ticksBetween schedule j (n + 1) * t.par.usPerTick =
        ticksBetween schedule j n * t.par.usPerTick + (if schedule n = .timer then 1 else 0) * t.par.usPerTick := by
      rw [ticksBetween_succ _ hj, Nat.add_mul]
    have hmost : ticksBetween schedule j (n + 1) * t.par.usPerTick ≤ lag * t.par.usPerTick := Nat.mul_le_mul_right _ hlag
    have hfits : t.par.resetLowUs + lag * t.par.usPerTick ≤ 2 ^ 32 := by rw [ht.par]; exact hgood.fits
    have hlimit := ht.legal.stageLimit_le
    have helapsed : (elapsed u).toNat = (elapsed t).toNat + (if schedule n = .timer then 1 else 0) * t.par.usPerTick := by
      rw [hmove.elapsed_eq, BitVec.toNat_add, BitVec.toNat_ofNat, Nat.add_mod_mod, Nat.mod_eq_of_lt (by omega)]
    refine ⟨⟨j, by omega, hquiet', ?_⟩, helapsed⟩
    rw [helapsed, hmove.limit_eq, hpar, hsum]
    omega

/-! ### Every wait runs out -/

/-- An attempt of rank `r` that waits, polled, with at least `e` microseconds elapsed. -/
def WaitsAt (schedule : Nat → Move) (s : State) (r e : Nat) : Prop :=
  ∃ n t, Attempt schedule s n t ∧ rank t = r ∧ Polled schedule n t ∧ e ≤ (elapsed t).toNat

/-- The first poll finds the wait run out, or below its limit. -/
theorem Attempt.first_poll (hgood : GoodSchedule schedule lag s) {d : Nat} : ∀ {n : Nat} {t : State},
    Attempt schedule s n t → schedule (n + d) = .decoder →
    Outruns schedule s (rank t) ∨ WaitsAt schedule s (rank t) 0 := by
  induction d with
  | zero =>
    intro n t h hpoll
    obtain hout | ⟨u, hu, hmove⟩ := h.move hgood
    · exact .inl hout
    · have helapsed : elapsed u = elapsed t := by simpa [show schedule n = .decoder from hpoll] using hmove.elapsed_eq
      refine .inr ⟨n + 1, u, hu, hmove.rank_eq, ⟨n + 1, le_rfl, fun i hi hi' => by omega, ?_⟩, Nat.zero_le _⟩
      rw [helapsed, hmove.limit_eq, ticksBetween_self, Nat.zero_mul, Nat.add_zero]
      exact hmove.early hpoll
  | succ d ih =>
    intro n t h hpoll
    obtain hout | ⟨u, hu, hmove⟩ := h.move hgood
    · exact .inl hout
    · rw [← hmove.rank_eq]
      exact ih hu (by rwa [Nat.add_right_comm, Nat.add_assoc])

/-- With the next tick a polled wait has more time behind it. -/
theorem Polled.next_tick (hgood : GoodSchedule schedule lag s) {d : Nat} : ∀ {n : Nat} {t : State},
    Polled schedule n t → Attempt schedule s n t → schedule (n + d) = .timer →
    Outruns schedule s (rank t) ∨ WaitsAt schedule s (rank t) ((elapsed t).toNat + 1) := by
  induction d with
  | zero =>
    intro n t h ht htimer
    obtain hout | ⟨u, hu, hmove⟩ := ht.move hgood
    · exact .inl hout
    · obtain ⟨hpolled, helapsed⟩ := h.move hgood ht hu hmove
      have htick := (params_ranges ht.legal.parWf).1
      rw [if_pos (show schedule n = .timer from htimer), Nat.one_mul] at helapsed
      exact .inr ⟨n + 1, u, hu, hmove.rank_eq, hpolled, by omega⟩
  | succ d ih =>
    intro n t h ht htimer
    obtain hout | ⟨u, hu, hmove⟩ := ht.move hgood
    · exact .inl hout
    · obtain ⟨hpolled, helapsed⟩ := h.move hgood ht hu hmove
      rw [← hmove.rank_eq]
      obtain hout | ⟨m, v, hv, hrank, hpolled', hmore⟩ := ih hpolled hu (by rwa [Nat.add_right_comm, Nat.add_assoc])
      · exact .inl hout
      · exact .inr ⟨m, v, hv, hrank, hpolled', by omega⟩

/-- The elapsed time of a wait that goes on passes every bound. -/
theorem WaitsAt.grows (hgood : GoodSchedule schedule lag s) {r : Nat} (h : WaitsAt schedule s r 0) (e : Nat) :
    Outruns schedule s r ∨ WaitsAt schedule s r e := by
  induction e with
  | zero => exact .inr h
  | succ e ih =>
    obtain hout | ⟨n, t, ht, rfl, hpolled, hle⟩ := ih
    · exact .inl hout
    · obtain ⟨m, hm, htimer⟩ := hgood.fair.timer n
      obtain ⟨d, rfl⟩ := Nat.exists_eq_add_of_le hm
      obtain hout | ⟨k, u, hu, hrank, hpolled', hmore⟩ := hpolled.next_tick hgood ht htimer
      · exact .inl hout
      · exact .inr ⟨k, u, hu, hrank, hpolled', by omega⟩

/-- Every running attempt moves on: an elapsed time of 32 bits is below 2^32. -/
theorem Attempt.outruns (hgood : GoodSchedule schedule lag s) {n : Nat} {t : State} (h : Attempt schedule s n t) :
    Outruns schedule s (rank t) := by
  obtain ⟨m, hm, hpoll⟩ := hgood.fair.decoder n
  obtain ⟨d, rfl⟩ := Nat.exists_eq_add_of_le hm
  obtain hout | hwaits := h.first_poll hgood hpoll
  · exact hout
  · obtain hout | ⟨k, u, -, -, -, hle⟩ := hwaits.grows hgood (2 ^ 32)
    · exact hout
    · exact absurd (elapsed u).isLt (by omega)

/-! ### Every attempt ends -/

/-- R184: by induction on how far the rank is below its greatest value. -/
theorem Attempt.exists_over (hgood : GoodSchedule schedule lag s) {d : Nat} : ∀ {n : Nat} {t : State},
    Attempt schedule s n t → 128 - rank t ≤ d → ∃ n t, runSchedule schedule 0 n s = .next t ∧ AttemptOver t := by
  induction d with
  | zero =>
    intro n t h hd
    obtain ⟨m, u, hover | ⟨hu, hrank⟩⟩ := h.outruns hgood
    · exact ⟨m, u, hover⟩
    · have := hu.legal.rank_le
      omega
  | succ d ih =>
    intro n t h hd
    obtain ⟨m, u, hover | ⟨hu, hrank⟩⟩ := h.outruns hgood
    · exact ⟨m, u, hover⟩
    · exact ih hu (by omega)

end Schedule

/-- Settles O60: `attempt_ends_under_reference`, and `Attempt.exists_over` from the first state of the run. -/
theorem everyAttemptEnds : Obligations.EveryAttemptEnds := by
  refine ⟨fun drive command k s h hie hu hidle hcommand => attempt_ends_under_reference drive command k h hie hu hidle hcommand,
    fun schedule lag s h hbusy hfair hpolls hreset hlost hfits => ?_⟩
  have hattempt : Attempt schedule s 0 s := ⟨rfl, h, h.busyIff.1 hbusy, rfl⟩
  exact hattempt.exists_over ⟨hfair, hpolls, hreset, hlost, hfits⟩ le_rfl

end Sys2Proof.Machine
end

section
/-! Which operations write which registers (R20, R60, R180, R216): read off the effects, one register at a time. -/

namespace Sys2Proof.Machine

/-! ### The reason codes -/

/-- Settles O42: each effect that writes the reason is one row of the table (R216). -/
theorem eachReasonHasItsOwnSteps : Obligations.EachReasonHasItsOwnSteps := by
  intro i s t hexec hne
  cases exec_effect hexec with
  | idleBegin hstart => exact .inl ⟨rfl, .inl ⟨rfl, hstart⟩⟩
  | reset => exact .inl ⟨rfl, .inr rfl⟩
  | synclowFail hi hw => exact .inr (.inl ⟨rfl, hi, hw⟩)
  | synchighFail hline htime => exact .inr (.inr (.inl ⟨rfl, rfl, hline, htime⟩))
  | rxFail hi => exact .inr (.inr (.inr (.inl ⟨rfl, hi, rfl⟩)))
  | invalid hframe => exact .inr (.inr (.inr (.inr ⟨rfl, rfl, hframe⟩)))
  | _ => exact absurd rfl hne

/-! ### The stages -/

theorem mayFollow_of_stageStep {i : Instr} {s t : State} (hown : OwnStep s i) (h : Effect i s t) :
    t.stage = s.stage ∨ mayFollow s.stage t.stage = true := by
  have hstage : s.stage = stageOf i := hown.stage_eq
  cases h with
  | idleBegin | resetEnd | release | synclowPass | synchighFail | synchighEnd | valid | invalid | done =>
    rw [hstage]; exact .inr rfl
  | synclowFail hi => rw [hstage, hi.stage.2]; exact .inr rfl
  | rxFail hi => rw [hstage, hi.stage.2]; exact .inr rfl
  | rxBit =>
    have hrx : s.stage = .receivebits := hstage
    by_cases h39 : s.bitIdx.toNat = 39
    · exact .inr (by simp [h39, hrx, mayFollow])
    · exact .inl (if_neg h39)
  | reset => cases hown
  | _ => exact .inl rfl

/-- Settles O44: the DECODER's move runs the step of its own stage, whose effects lead where `mayFollow` says. -/
theorem stagesFollowOneAnother : Obligations.StagesFollowOneAnother := by
  intro s t rest hi ha hstep
  obtain ⟨i, hop, hexec⟩ := step_next_of_agenda hi ha hstep
  cases hop with
  | decoder hown =>
    have hown' : OwnStep { s with agenda := rest } i := hown.congr rfl rfl
    have hfollow := mayFollow_of_stageStep hown' (exec_effect hexec)
    exact hfollow

/-! ### The frame store -/

/-- An effect keeps the frame store, clears it at the start of an attempt or at reset, or stores one bit. -/
theorem Effect.frame_cases {i : Instr} {s t : State} (h : Effect i s t) :
    t.frame = s.frame ∨ i = .stIdle ∨ i = .hwReset ∨
      (i = .stRxTrail ∧ ∃ v, storeBit s.frame s.bitIdx.toNat v = some t.frame) := by
  cases h with
  | idleBegin => exact .inr (.inl rfl)
  | reset => exact .inr (.inr (.inl rfl))
  | rxBit _ _ hstore => exact .inr (.inr (.inr ⟨rfl, _, hstore⟩))
  | _ => exact .inl rfl

/-- Settles O46: the cases of `Effect.frame_cases`; a bit store leaves the other bytes (`storeBit_other`). -/
theorem frameStoreWriters : Obligations.FrameStoreWriters := by
  intro i s t hexec
  obtain hkept | rfl | rfl | ⟨rfl, v, hstore⟩ := (exec_effect hexec).frame_cases
  · rw [hkept]; exact ⟨fun _ _ _ _ => rfl, fun _ _ _ => rfl⟩
  · exact ⟨fun _ h => absurd rfl h, fun h => by rcases h with h | h | h <;> cases h⟩
  · exact ⟨fun _ _ h => absurd rfl h, fun h => by rcases h with h | h | h <;> cases h⟩
  · exact ⟨fun h => absurd (.inr (.inr rfl)) h, fun _ a ha => storeBit_other hstore ha⟩

/-- Settles O50: `wf_storeBit`, and the extensionality of the canonical form. -/
theorem bitStoreKeepsCanonicalForm : Obligations.BitStoreKeepsCanonicalForm := by
  intro m m' i v hwf hstore
  have hwf' := wf_storeBit hwf hstore
  exact ⟨hwf', fun m'' hwf'' hread => Memory.ext_of_wfFrom hwf'' hwf' hread⟩

/-! ### The flags, the pad, the bit index -/

section Writers

variable {i : Instr} {s t : State}

theorem Effect.ie_cases (h : Effect i s t) : t.ie = s.ie ∨ (∃ v, i = .setIe v) ∨ i = .hwReset := by
  cases h with
  | enable => exact .inr (.inl ⟨_, rfl⟩)
  | reset => exact .inr (.inr rfl)
  | _ => exact .inl rfl

theorem Effect.sens_cases (h : Effect i s t) : t.sens = s.sens ∨ ∃ v, i = .sensorDrive v := by
  cases h with
  | drive => exact .inr ⟨_, rfl⟩
  | _ => exact .inl rfl

theorem Effect.start_cases (h : Effect i s t) : t.start = s.start ∨ i = .getReading ∨ i = .stIdle ∨ i = .hwReset := by
  cases h with
  | command => exact .inr (.inl rfl)
  | idleBegin => exact .inr (.inr (.inl rfl))
  | reset => exact .inr (.inr (.inr rfl))
  | _ => exact .inl rfl

theorem Effect.gmode_cases (h : Effect i s t) : t.gmode = s.gmode ∨ i = .setOutputLow ∨ i = .setInputPullup ∨
    i = .stIdle ∨ i = .stRelease ∨ i = .hwReset := by
  cases h with
  | outputLow => exact .inr (.inl rfl)
  | inputPullup => exact .inr (.inr (.inl rfl))
  | idleBegin => exact .inr (.inr (.inr (.inl rfl)))
  | release => exact .inr (.inr (.inr (.inr (.inl rfl))))
  | reset => exact .inr (.inr (.inr (.inr (.inr rfl))))
  | _ => exact .inl rfl

theorem Effect.flags_cases (h : Effect i s t) :
    (t.busy = s.busy ∧ t.donef = s.donef) ∨ i = .stIdle ∨ i = .stDone ∨ i = .hwReset := by
  cases h with
  | idleBegin => exact .inr (.inl rfl)
  | done => exact .inr (.inr (.inl rfl))
  | reset => exact .inr (.inr (.inr rfl))
  | _ => exact .inl ⟨rfl, rfl⟩

theorem Effect.bitIdx_cases (h : Effect i s t) : t.bitIdx = s.bitIdx ∨ i = .stIdle ∨ isRxStep i ∨ i = .hwReset := by
  cases h with
  | idleBegin => exact .inr (.inl rfl)
  | rxBit => exact .inr (.inr (.inl (.inr (.inr rfl))))
  | reset => exact .inr (.inr (.inr rfl))
  | _ => exact .inl rfl

end Writers

/-- Settles O47: for each register, an effect that changes it is none of those that keep it. -/
theorem flagsAndPadHaveTheirWriters : Obligations.FlagsAndPadHaveTheirWriters := by
  intro i s t hexec
  have heff := exec_effect hexec
  exact ⟨heff.ie_cases.resolve_left, heff.sens_cases.resolve_left, heff.start_cases.resolve_left,
    heff.gmode_cases.resolve_left, (heff.flags_cases.imp_left And.left).resolve_left,
    (heff.flags_cases.imp_left And.right).resolve_left, heff.bitIdx_cases.resolve_left, heff.par_eq⟩

end Sys2Proof.Machine
end

section
/-! The stage steps and the command, one equation per case (R165 to R168, R171, R173, R176, R179). -/

namespace Sys2Proof.Machine

/-! ### The command and the steps without a measurement -/

/-- Settles O27: the two branches of `GET_READING`. -/
theorem getReadingIsIgnoredWhileBusy : Obligations.GetReadingIsIgnoredWhileBusy :=
  fun _ => ⟨fun h => congrArg Host.Outcome.next (if_neg (by simp [h])), fun h => congrArg Host.Outcome.next (if_pos h)⟩

/-- Settles O28: the two branches of `ST_IDLE`, the second being `beginAttempt`. -/
theorem idleAcceptsACommand : Obligations.IdleAcceptsACommand :=
  fun _ => ⟨fun h => congrArg Host.Outcome.next (if_neg (by simp [h])), execStIdle_of_start⟩

/-- Settles O29: the comparison of `ST_RESET` in numbers (`resetLow_toNat`). -/
theorem resetStageWaitsForItsDuration : Obligations.ResetStageWaitsForItsDuration := by
  intro s hpar
  rw [← resetLow_toNat hpar]
  exact ⟨fun hle => congrArg Host.Outcome.next (if_pos hle), fun hlt => congrArg Host.Outcome.next (if_neg (Nat.not_le.2 hlt))⟩

/-- Settles O30: the one update of `ST_RELEASE`. -/
theorem releaseStartsTheAcknowledgement : Obligations.ReleaseStartsTheAcknowledgement := fun _ => rfl

/-- Settles O40: the one update of `ST_DONE`. -/
theorem doneEndsTheAttempt : Obligations.DoneEndsTheAttempt := fun _ => rfl

/-- Settles O34: the cases of `ST_SYNCHIGH` with its timeout in numbers (`syncHighTimeout_toNat`). -/
theorem synchighWaitsForLow : Obligations.SynchighWaitsForLow := by
  intro s hpar
  rw [← syncHighTimeout_toNat hpar]
  show (_ → execStSynchigh s = _) ∧ (_ → _ → execStSynchigh s = _) ∧ (_ → _ → execStSynchigh s = _)
  obtain ⟨hline, h⟩ | ⟨hline, hle, h⟩ | ⟨hline, hlt, h⟩ := execStSynchigh_cases s <;> rw [h, hline]
  · exact ⟨fun _ => rfl, nofun, nofun⟩
  · exact ⟨nofun, fun _ _ => rfl, fun _ hlt => absurd hle (BitVec.not_le.2 hlt)⟩
  · exact ⟨nofun, fun _ hle => absurd hlt (BitVec.not_lt.2 hle), fun _ _ => rfl⟩

/-! ### The third wait of the acknowledgement -/

/-- With the line high the acknowledgement's measurement ends, and the width is the time since the stamp (R171). -/
theorem synclowStep_trail_of_high {s : State} (hline : line s = .high) :
    synclowStep .trail s = .next (synclowDone (nowOf s - s.ts) s) := by
  have hpulse : synclowPulse .trail s = .done (nowOf s - s.ts) := pulseStep_of_match _ _ _ _ (by decide) hline
  rw [synclowStep, hpulse]

/-- Settles O33: `synclowDone` on the width taken, and the timeout and the wait of any phase. -/
theorem synclowTrailTestsTheWidth : Obligations.SynclowTrailTestsTheWidth := by
  intro s
  refine ⟨fun hline hw => ?short, fun hline hw => ?long, synclowStep_of_timeout (ph := .trail) (by decide),
    synclowStep_of_pending (ph := .trail) (by decide)⟩
  case short =>
    refine (synclowStep_trail_of_high hline).trans ?_
    obtain ⟨-, h⟩ | ⟨hle, -⟩ := synclowDone_cases (nowOf s - s.ts) s
    · rw [h]; rfl
    · exact absurd hle (Nat.not_le.2 hw)
  case long =>
    refine (synclowStep_trail_of_high hline).trans ?_
    obtain ⟨hlt, -⟩ | ⟨-, h⟩ := synclowDone_cases (nowOf s - s.ts) s
    · exact absurd hlt (Nat.not_lt.2 hw)
    · rw [h]

/-! ### The third wait of a bit -/

/-- Settles O37: `rxDone` on the width taken, in its three cases, and the timeout and the wait of any phase. -/
theorem rxTrailStoresTheBit : Obligations.RxTrailStoresTheBit := by
  intro s
  refine ⟨rxStep_of_timeout (ph := .trail) (by decide), rxStep_of_pending (ph := .trail) (by decide),
    fun hline heq => ?_, fun hline hne hidx => ?_, fun hline hne hidx => ?_⟩ <;> rw [exec_stRxTrail_of_low hline]
  · rw [heq, BitVec.sub_self]; rfl
  · obtain ⟨hw, -⟩ | ⟨-, -, m, hstore, hdone⟩ | ⟨-, hfull, -⟩ := rxDone_cases (nowOf s - s.ts) s
    · exact absurd (sub_eq_zero.1 hw) hne
    · exact ⟨m, hdone, fun a ha => storeBit_other hstore ha, fun hwf j _ => frameBit_storeBit hwf hstore j⟩
    · omega
  · obtain ⟨hw, -⟩ | ⟨-, hlt, -⟩ | ⟨-, -, hdone⟩ := rxDone_cases (nowOf s - s.ts) s
    · exact absurd (sub_eq_zero.1 hw) hne
    · omega
    · exact hdone

end Sys2Proof.Machine
end

section
/-! The pad and the line (R130 to R134): who pulls the line low, and what each primitive does to it. -/

namespace Sys2Proof.Machine

theorem line_of_outputLow {s : State} (h : s.gmode = .outputLow) : line s = .low :=
  (line_low_iff s).2 (.inl h)

theorem line_of_inputPullup {s : State} (h : s.gmode = .inputPullup) : line s = if s.sens then .low else .high := by
  simp [line, h]

/-- Settles O15: the pad's own drive suffices (`line_of_outputLow`). -/
theorem setOutputLowPullsTheLine : Obligations.SetOutputLowPullsTheLine :=
  fun _ => ⟨_, rfl, rfl, line_of_outputLow rfl, rfl, rfl, rfl⟩

/-- Settles O16: the sensor's drive alone is left (`line_of_inputPullup`). -/
theorem setInputPullupReleasesTheLine : Obligations.SetInputPullupReleasesTheLine :=
  fun _ => ⟨_, rfl, rfl, line_of_inputPullup rfl, rfl, rfl⟩

/-- Settles O17: the answer of `READ`, and the wired-AND (`line_low_iff`). -/
theorem readReturnsTheLine : Obligations.ReadReturnsTheLine :=
  fun s => ⟨rfl, line_low_iff s, rfl⟩

/-- Settles O18: the one update of `SENSOR_DRIVE`, and the line in both pad modes. -/
theorem sensorDriveMovesTheLine : Obligations.SensorDriveMovesTheLine :=
  fun _ _ => ⟨_, rfl, rfl, fun h => line_of_inputPullup h, fun h => line_of_outputLow h⟩

end Sys2Proof.Machine
end

section
/-! Poll, level wait and pulse measurement as calls of their own (R145 to R149; logs 7 and 8): one lemma per outcome of an
issue, for operands in progress or new. -/

namespace Sys2Proof.Machine

/-! ### The poll -/

/-- Settles O19: the three outcomes of `poll_cases` exclude one another. -/
theorem pollTestsTheLevelFirst : Obligations.PollTestsTheLevelFirst := by
  intro lv l limit t0 t
  simp only [← BitVec.le_def, ← BitVec.lt_def]
  obtain ⟨hl, h⟩ | ⟨hl, ht, h⟩ | ⟨hl, ht, h⟩ := poll_cases lv l limit t0 t <;> rw [h]
  · simp [hl]
  · simp [hl, ht]
  · simp [hl, ht]

/-! ### The level wait -/

section Wait

variable {l : Level} {limit t0 : Time} {s : State}

theorem exec_waitForLevel_of_match (hops : waitOperands l s = (limit, t0)) (hline : line s = l) :
    exec (.waitForLevel l) s = .next { s with call := .none, ret := .bool true } := by
  simp only [exec, execWaitForLevel, hops, poll_hit _ _ _ hline]
  rfl

theorem exec_waitForLevel_of_timeout (hops : waitOperands l s = (limit, t0)) (hline : line s ≠ l)
    (ht : limit ≤ nowOf s - t0) : exec (.waitForLevel l) s = .next { s with call := .none, ret := .bool false } := by
  simp only [exec, execWaitForLevel, hops, poll_timeout hline ht]
  rfl

theorem exec_waitForLevel_of_pending (hops : waitOperands l s = (limit, t0)) (hline : line s ≠ l)
    (ht : nowOf s - t0 < limit) :
    exec (.waitForLevel l) s = .next { s with call := .waiting l limit t0, ret := .pending } := by
  simp only [exec, execWaitForLevel, hops, poll_pending hline ht]
  rfl

theorem waitOperands_of_waiting (h : s.call = .waiting l limit t0) : waitOperands l s = (limit, t0) := by
  simp [waitOperands, h]

theorem waitOperands_of_none (h : s.call = .none) :
    waitOperands l s = (s.args.timeout, s.args.origin.getD (nowOf s)) := by
  simp [waitOperands, h]

end Wait

/-- Settles O20: in each of the cases the operands are `limit` and `t0`; then one lemma per outcome of the poll. -/
theorem waitForLevelPollsOnce : Obligations.WaitForLevelPollsOnce := by
  intro l limit t0 s hcall
  have hops : waitOperands l s = (limit, t0) := by
    obtain hwaiting | ⟨hnone, rfl, horigin | ⟨horigin, rfl⟩⟩ := hcall
    · exact waitOperands_of_waiting hwaiting
    · rw [waitOperands_of_none hnone, horigin]; rfl
    · rw [waitOperands_of_none hnone, horigin]; rfl
  exact ⟨exec_waitForLevel_of_match hops, exec_waitForLevel_of_timeout hops, exec_waitForLevel_of_pending hops⟩

/-! ### The pulse measurement -/

/-- The state a step of the measurement `c` leaves (R149). -/
def afterPulseStep (l : Level) (c : PulseCall) (s : State) : PulseStep → State
  | .wait => keepMeasuring l c c.phase c.start s
  | .lead => keepMeasuring l c .lead c.start s
  | .trail t => keepMeasuring l c .trail t s
  | .done w => answer (.sample w) { s with call := .none }

theorem exec_measurePulse_eq {l : Level} {s : State} {c : PulseCall} (hc : pulseOperands l s = c) {p : PulseStep}
    (hp : pulseStep l c.timeout c.phase c.origin c.start (line s) (nowOf s) = p) :
    exec (.measurePulse l) s = .next (afterPulseStep l c s p) := by
  simp only [exec, execMeasurePulse, hc, hp]
  cases p <;> rfl

theorem pulseOperands_of_none {l : Level} {s : State} (h : s.call = .none) : pulseOperands l s = newPulseCall s := by
  simp [pulseOperands, h]

theorem pulseOperands_of_measuring {l : Level} {limit t0 st : Time} {ph : Phase} {s : State}
    (h : s.call = .measuring l limit t0 ph st) : pulseOperands l s = ⟨limit, t0, ph, st⟩ := by
  simp [pulseOperands, h]

theorem set_call_eq {s : State} {c : Call} (h : s.call = c) (r : PrimResult) :
    { s with call := c, ret := r } = { s with ret := r } := by
  rw [← h]

/-- Settles O21: the first wait of a new measurement polls for the other level, with no time elapsed. -/
theorem measurePulseBegins : Obligations.MeasurePulseBegins := by
  intro l s hnone
  have hc : pulseOperands l s = newPulseCall s := pulseOperands_of_none hnone
  have hzero : nowOf s - nowOf s = 0 := sub_self _
  have hother : ∀ l' : Level, l'.other.other = l' := fun l' => by cases l' <;> rfl
  refine ⟨fun hline => ?_, fun hline htimeout => ?_, fun hline htimeout => ?_⟩
  · exact exec_measurePulse_eq hc (pulseStep_of_match _ _ _ _ nofun ((level_ne_iff _ _).1 hline))
  · have hpos : nowOf s - nowOf s < s.args.timeout := by
      rw [hzero]
      exact (BitVec.pos_iff_ne_zero _).2 htimeout
    exact exec_measurePulse_eq hc (pulseStep_of_pending _ nofun (hline.trans (hother l).symm) hpos)
  · have hle : s.args.timeout ≤ nowOf s - nowOf s := by
      rw [hzero, htimeout]
      exact BitVec.le_refl _
    have hdone := exec_measurePulse_eq hc (pulseStep_of_timeout _ nofun (hline.trans (hother l).symm) hle)
    exact hdone.trans (congrArg _ (set_call_eq hnone _))

/-- Settles O22: one lemma per outcome of the measurement step, in any of its three phases. -/
theorem measurePulseChainsThreeWaits : Obligations.MeasurePulseChainsThreeWaits := by
  intro l limit t0 st ph s hph hcall wanted
  have hc : pulseOperands l s = ⟨limit, t0, ph, st⟩ := pulseOperands_of_measuring hcall
  have hwanted : wanted = wantedLevel l ph := by cases ph <;> rfl
  rw [hwanted]
  refine ⟨fun hline => ?hit, fun hline ht => ?timeout, fun hline ht => ?pending⟩
  case hit =>
    have hexec := exec_measurePulse_eq hc (pulseStep_of_match limit t0 st (nowOf s) hph hline)
    refine ⟨?_, ?_, ?_⟩ <;> rintro rfl <;> exact hexec
  case timeout => exact exec_measurePulse_eq hc (pulseStep_of_timeout st hph ((level_ne_iff _ _).1 hline) ht)
  case pending =>
    have hexec := exec_measurePulse_eq hc (pulseStep_of_pending st hph ((level_ne_iff _ _).1 hline) ht)
    exact hexec.trans (congrArg _ (set_call_eq hcall _))

end Sys2Proof.Machine
end

section
/-! The values (R202, R204, R205): the number of decimals of a fraction byte, its exact value, and the reading made of them. -/

namespace Sys2Proof.Machine

/-- Settles O24: the answer of `CHECKSUM`, with its byte as the sum (`checksumOf_eq_add`). -/
theorem checksumReturnsItsByte : Obligations.ChecksumReturnsItsByte :=
  fun s => by rw [← checksumOf_eq_add]; rfl

/-! ### Fractions -/

/-- How many divisions by 10 bring `b` below 1 (R204). -/
def decimals (b : Nat) : Nat := if b = 0 then 0 else if b ≤ 9 then 1 else if b ≤ 99 then 2 else 3

/-- The loop of `FRACTIONAL` counts the decimals and multiplies its divisor up to their power of 10. -/
theorem fractionLoop_eq (b : Nat) : fractionLoop 3 b 1 0 = (decimals b, 10 ^ decimals b) := by
  simp only [fractionLoop, decimals]
  split_ifs <;> grind

theorem decimals_le (b : Nat) : decimals b ≤ 3 := by
  unfold decimals
  split_ifs <;> omega

theorem lt_pow_decimals (b : Byte) : b.toNat < 10 ^ decimals b.toNat := by
  have hb : b.toNat < 256 := b.isLt
  unfold decimals
  split_ifs <;> norm_num <;> omega

theorem scaleOf_eq (b : Byte) : scaleOf b = BitVec.ofNat 2 (decimals b.toNat) := by
  rw [scaleOf, fractionLoop_eq]

theorem scaleOf_toNat (b : Byte) : (scaleOf b).toNat = decimals b.toNat := by
  have := decimals_le b.toNat
  rw [scaleOf_eq, BitVec.toNat_ofNat, Nat.mod_eq_of_lt (by omega)]

theorem fractionOf_eq (b : Byte) : fractionOf b = (b.toNat : ℚ) / 10 ^ decimals b.toNat := by
  rw [fractionOf, fractionLoop_eq]
  push_cast
  rfl

theorem fractionOf_nonneg (b : Byte) : 0 ≤ fractionOf b := by
  rw [fractionOf_eq]
  positivity

theorem fractionOf_lt_one (b : Byte) : fractionOf b < 1 := by
  rw [fractionOf_eq, div_lt_one (by positivity)]
  exact_mod_cast lt_pow_decimals b

theorem fractionOf_mul_pow (b : Byte) : fractionOf b * 10 ^ (scaleOf b).toNat = b.toNat := by
  rw [fractionOf_eq, scaleOf_toNat, div_mul_cancel₀ _ (by positivity)]

/-- Settles O25: the answer of `FRACTIONAL`, and the range of the fraction. -/
theorem fractionalDividesUntilBelowOne : Obligations.FractionalDividesUntilBelowOne := by
  intro s b k
  have hscale : scaleOf s.args.b0 = BitVec.ofNat 2 k := scaleOf_eq _
  have hvalue : fractionOf s.args.b0 = (b : ℚ) / 10 ^ k := fractionOf_eq _
  rw [← hscale, ← hvalue]
  exact ⟨rfl, fractionOf_nonneg _, fractionOf_lt_one _⟩

/-- Settles O26: the reading by its tag, and the fractions of the two bytes. -/
theorem readingIsIntegerPlusFraction : Obligations.ReadingIsIntegerPlusFraction :=
  fun s => ⟨fun hv => ⟨fractionOf s.tmpF, fractionOf s.humF, readingOf_of_resValid hv, fractionOf_mul_pow s.tmpF,
    fractionOf_mul_pow s.humF, fractionOf_nonneg _, fractionOf_lt_one _, fractionOf_nonneg _, fractionOf_lt_one _⟩,
    readingOf_of_not_resValid⟩

end Sys2Proof.Machine
end
